-- ==== Sys2Proof/Word.lean ====
section
/-! DEFINITION. The machine's smallest units: bytes, 32-bit words, byte and bit sequences (00_scope.md R7, R8; 10_state.md R20). -/

namespace Sys2Proof

/-- An unsigned 8-bit value (R7, R20). -/
abbrev Byte := BitVec 8

/-- A 32-bit word: a command word (30_encoding.md R64) or STATUS (10_state.md R24). -/
abbrev Word := BitVec 32

/-- A finite sequence of bytes (R8). -/
abbrev Bytes := List Byte

/-- A finite sequence of bits, first bit first; `true` is 1 (R8). -/
abbrev Bits := List Bool

end Sys2Proof
end

