-- ==== Sys2Proof/Syntax.lean ====
section
/-! DEFINITION. The 25 legal commands of spec/opcode_table.json, one constructor per row (30_encoding.md R65, R66).
No command word carries an operand (R68), so no constructor has an argument. -/

namespace Sys2Proof

/-- One HCT command (R15). The two K variants of EWR, HWR and HRD are rows of their own (R66, R69). -/
inductive Instr where
  | freq | build | codes | trie | tser | tdes
  | pack | unpack
  | fenc | fdec | pwr | prd | pskip
  | ewrDir | ewrFile | erd
  | hwrFile | hwrFold | hrdFile | hrdFold
  | cfile | dfile | cdir | ddir | prev
  deriving DecidableEq, Repr

end Sys2Proof
end

