-- ==== Sys2Proof/WellFormed.lean ====
section
/-! DEFINITION. Well-formed command words, by the three conditions of 30_encoding.md R64, stated apart from the decoder.
An instruction has no operand, so as syntax every `Instr` is well formed; what can be ill formed is a word. -/

namespace Sys2Proof

/-- The field `w[7:0]` of R64. -/
def opField (w : Word) : Byte := w.extractLsb' 0 8

/-- The field `w[8]` of R64. -/
def kField (w : Word) : Bool := w.getLsbD 8

/-- The field `w[31:9]` of R64. -/
def rsvField (w : Word) : BitVec 23 := w.extractLsb' 9 23

/-- R65, R67: the assigned opcodes are 0x01 to 0x11 and 0x18 to 0x1C. -/
def assignedOp (op : Byte) : Bool :=
  (1 ≤ op.toNat && op.toNat ≤ 0x11) || (0x18 ≤ op.toNat && op.toNat ≤ 0x1C)

/-- R66: only EWR (0x0E), HWR (0x10) and HRD (0x11) use K. -/
def usesK (op : Byte) : Bool := op.toNat == 0x0E || op.toNat == 0x10 || op.toNat == 0x11

/-- R64: `w` is legal when its opcode is assigned, its reserved bits are 0, and K is 0 unless the opcode uses it. -/
def legalWord (w : Word) : Bool :=
  assignedOp (opField w) && rsvField w == 0 && (!kField w || usesK (opField w))

/-- R68: a command carries no operand that could be ill formed. -/
def Instr.wellFormed : Instr → Bool := fun _ => true

end Sys2Proof
end

