-- ==== Sys2Proof/Decode.lean ====
section
/-! DEFINITION. The decoder of command words (30_encoding.md R64 to R67), total on all 2^32 words, and the encoder. -/

namespace Sys2Proof

/-- The opcode map of R65 with the K selector of R66. -/
def decodeOp (op : Nat) (k : Bool) : Option Instr :=
  match op, k with
  | 0x01, false => some .freq
  | 0x02, false => some .build
  | 0x03, false => some .codes
  | 0x04, false => some .trie
  | 0x05, false => some .tser
  | 0x06, false => some .tdes
  | 0x07, false => some .pack
  | 0x08, false => some .unpack
  | 0x09, false => some .fenc
  | 0x0A, false => some .fdec
  | 0x0B, false => some .pwr
  | 0x0C, false => some .prd
  | 0x0D, false => some .pskip
  | 0x0E, false => some .ewrDir
  | 0x0E, true => some .ewrFile
  | 0x0F, false => some .erd
  | 0x10, false => some .hwrFile
  | 0x10, true => some .hwrFold
  | 0x11, false => some .hrdFile
  | 0x11, true => some .hrdFold
  | 0x18, false => some .cfile
  | 0x19, false => some .dfile
  | 0x1A, false => some .cdir
  | 0x1B, false => some .ddir
  | 0x1C, false => some .prev
  | _, _ => none

/-- R64: a legal word selects its command; `none` is an illegal word, which raises IllegalCommand (R67, R168). -/
def decode (w : Word) : Option Instr :=
  if rsvField w = 0 then decodeOp (opField w).toNat (kField w) else none

/-- The opcode byte of a command (R65), which STATUS.LASTOP records (10_state.md R24). -/
def opcode : Instr → Byte
  | .freq => 0x01
  | .build => 0x02
  | .codes => 0x03
  | .trie => 0x04
  | .tser => 0x05
  | .tdes => 0x06
  | .pack => 0x07
  | .unpack => 0x08
  | .fenc => 0x09
  | .fdec => 0x0A
  | .pwr => 0x0B
  | .prd => 0x0C
  | .pskip => 0x0D
  | .ewrDir => 0x0E
  | .ewrFile => 0x0E
  | .erd => 0x0F
  | .hwrFile => 0x10
  | .hwrFold => 0x10
  | .hrdFile => 0x11
  | .hrdFold => 0x11
  | .cfile => 0x18
  | .dfile => 0x19
  | .cdir => 0x1A
  | .ddir => 0x1B
  | .prev => 0x1C

/-- The K bit of a command (R66). -/
def kBit : Instr → Bool
  | .ewrFile => true
  | .hwrFold => true
  | .hrdFold => true
  | _ => false

/-- The word of a command: RSV = 0, then K, then OP (R64, R66). -/
def encode (i : Instr) : Word :=
  (0 : BitVec 23) ++ BitVec.ofBool (kBit i) ++ opcode i

/-- The command word a table row's bits stand for: `nbits` bits of `w`, every bit above them 0. A command is one
32-bit register value (R64), so no byte order enters. -/
def tableWord (nbits w : Nat) : Word := BitVec.ofNat 32 (w % 2 ^ nbits)

/-- The instruction the decoder reads from a table row's bits; there is one word length, 32 bits (R64). -/
def decodeTableWord (nbits w : Nat) : Option Instr :=
  if nbits ≤ 32 then decode (tableWord nbits w) else none

end Sys2Proof
end

