-- ==== Sys2Proof/Config.lean ====
section
/-! DEFINITION. The implementation parameters of 00_scope.md R6: the fixed ones with their values, the OPEN ones as
constants without a body, and the free values of the outside world (20_memory.md R57, R61; 70_reset_and_hazards.md R185). -/

namespace Sys2Proof

/-- `MAX_FIELD` = 2^31 - 1, the largest value a 4-byte field may carry (R6, D14). -/
abbrev Config.maxField : Nat := 2147483647

/-- `MAX_STR` = 65535 (R6, D15). -/
abbrev Config.maxStr : Nat := 65535

/-- `MAX_ENTRIES` = 256 (R6, D22). -/
abbrev Config.maxEntries : Nat := 256

/-- `MAX_CODE_BITS` = 255 (R6, D22). -/
abbrev Config.maxCodeBits : Nat := 255

/-- `SEP` = 0x2F (R6, D20). -/
abbrev Config.sep : Byte := 0x2F#8

/-- The dot byte 0x2E (20_memory.md R45). -/
abbrev Config.dot : Byte := 0x2E#8

/-- What a path of the host's filesystem names, if anything (10_state.md R38). `special` is a link or a special file,
which the host shows to HCT as a file, a directory or nothing as it chooses, with these bytes where it is read (20_memory.md
R59 duty 2; U12). -/
inductive FsNode where
  | file (contents : Bytes)
  | dir
  | special (contents : Bytes)
  deriving DecidableEq, Repr, Inhabited

/-- What the host shows of an entry: all that HCT sees of it (20_memory.md R59 duty 2). -/
inductive View where
  | file
  | dir
  | missing
  deriving DecidableEq, Repr, Inhabited

/-- The host's filesystem: (path, node) pairs in ascending order of paths, no path twice; an unlisted path is nothing
(R38). DESIGN CHOICE, log 13. -/
abbrev FileSystem := List (Bytes × FsNode)

/-- What the host draws when it answers one request (R57, R59, R61). DESIGN CHOICE, log 2.
`edit`: what the host changed its filesystem to before this request; read only where duty 4 is lifted (R188).
`fail`: the reply is IOFAIL (R57: IOFAIL may answer any request).
`landed`: how much of a failed write request took effect (R61); `none`: nothing.
`listing`: the order the host lists names in (U11): these first.
`dirData`: what H_READ of a directory answers, data or MISSING (log 6).
`view`: what H_STAT answers for a link or special file (U12), and, as `missing`, that H_READ answers MISSING (R57). -/
structure Draw where
  edit : Option FileSystem
  fail : Bool
  landed : Option Nat
  listing : List Bytes
  dirData : Option Bytes
  view : View
  deriving DecidableEq, Repr, Inhabited

/-- OPEN `BUF_CAP`, below 2^64 (R6, R29, D33). No body: a claim holds for every value. -/
opaque Config.bufCap : BitVec 64

/-- OPEN `WALK_DEPTH_MAX` (R6, D35). -/
opaque Config.walkDepthMax : Nat

/-- OPEN `ARCHIVE_EXT` (R6, D31). -/
opaque Config.archiveExt : Bytes

/-- Whether host duty 4 is lifted (20_memory.md R59; U13: "A model may lift duty 4 as a named parameter"). -/
opaque Config.hostMayChange : Bool

/-- The host's filesystem at the start of a run, a free input (R185). -/
opaque Config.startFiles : FileSystem

/-- The draw of the host's reply to request number `n` where the state lists no draw for it (U9, U10, U26). -/
opaque Config.freeDraw : Nat → Draw

end Sys2Proof
end

