-- ==== Sys2Proof/Machine/Files.lean ====
section
/-! DEFINITION. The host's filesystem as data (10_state.md R38): the order of byte strings, reading and writing one path,
the canonical form. What a request does to it is in HostFs.lean. -/

namespace Sys2Proof.Machine

/-- Ascending unsigned lexicographic order of byte strings, a proper prefix first (00_scope.md R11). -/
def bytesLt : Bytes → Bytes → Bool
  | _, [] => false
  | [], _ :: _ => true
  | a :: as, b :: bs => if a = b then bytesLt as bs else decide (a.toNat < b.toNat)

/-- What the path names: a file, a directory or nothing (R38). -/
def fsLookup (fs : FileSystem) (p : Bytes) : Option FsNode :=
  match fs with
  | [] => none
  | (q, n) :: rest => if q = p then some n else fsLookup rest p

/-- The filesystem with `p` naming `n`, every other path as before. -/
def fsInsert (p : Bytes) (n : FsNode) : FileSystem → FileSystem
  | [] => [(p, n)]
  | (q, m) :: rest =>
    if p = q then (p, n) :: rest
    else if bytesLt p q then (p, n) :: (q, m) :: rest
    else (q, m) :: fsInsert p n rest

/-- The canonical form of a list of (path, node) pairs; a later pair of one path wins. -/
def fsCanon (fs : FileSystem) : FileSystem := fs.foldl (fun acc e => fsInsert e.1 e.2 acc) []

/-- The canonical form holds: paths strictly ascending. -/
abbrev FsWf (fs : FileSystem) : Prop := fs.Pairwise (fun a b => bytesLt a.1 b.1 = true)

end Sys2Proof.Machine
end

