-- ==== Sys2Proof/Machine/State.lean ====
section
/-! DEFINITION. The state of HCT and of its host as plain data (10_state.md R20, R21, R38), the reasons a step can stop,
and the state after reset (R39). -/

namespace Sys2Proof.Machine

/-- "`Node` or none" of R20 as one type: `absent` is none. The register TREE holds one (R30). -/
inductive Tree where
  | absent
  | leaf (sym : Byte)
  | inner (left right : Tree)
  deriving DecidableEq, Repr

/-- The item of a preview listing (R20; 46_operations.md R157). -/
structure PreviewItem where
  depth : Nat
  name : Bytes
  deriving DecidableEq, Repr

/-- `CodeTable` (R20): the entries of the partial map, ascending by byte value. DESIGN CHOICE, log 13. -/
abbrev CodeTable := List (Byte × Bits)

/-- `FreqTable` (R20): the nonzero counts of the total map, ascending by byte value; an unlisted byte has count 0.
DESIGN CHOICE, log 13. -/
abbrev FreqTable := List (Byte × Nat)

/-- The OPEN parameters the commands read (00_scope.md R6, "A model takes each OPEN parameter as an argument"). No step
changes them. `bufCap` is below 2^64 (R29). -/
structure Params where
  bufCap : BitVec 64
  walkDepthMax : Nat
  archiveExt : Bytes
  deriving DecidableEq, Repr

/-- The filesystem requests of 20_memory.md R57. -/
inductive HostReq where
  | stat (path : Bytes)
  | list (path : Bytes)
  | read (path : Bytes)
  | create (path : Bytes)
  | append (data : Bytes)
  | close
  | mkdirs (path : Bytes)
  | writeFile (path data : Bytes)
  deriving DecidableEq, Repr

/-- The replies of R57. -/
inductive HostReply where
  | missing
  | file
  | dir
  | names (segments : List Bytes)
  | data (contents : Bytes)
  | ok
  | ioFail
  deriving DecidableEq, Repr

/-- The host's side (R38; 20_memory.md section 7): its filesystem, the open output archive (its path), the ordered trace
of requests and replies (00_scope.md R17, R18), the draws of its coming replies (log 2), and whether duty 4 is lifted
(log 3). -/
structure HostSide where
  files : FileSystem
  archive : Option Bytes
  trace : List (HostReq × HostReply)
  draws : List Draw
  mayChange : Bool
  deriving DecidableEq, Repr

/-- The value of a host transaction on a register, by the register's type (R21). `noTree` is TREE's reset value (R22). -/
inductive RegValue where
  | word (v : Word)
  | bytes (v : Bytes)
  | nat (v : Nat)
  | freqs (v : FreqTable)
  | table (v : CodeTable)
  | byte (v : Byte)
  | kind (v : BitVec 2)
  | items (v : List PreviewItem)
  | noTree
  deriving DecidableEq, Repr

/-- The host's transactions (R22): HOST_WRITE, HOST_READ, and RESET (70_reset_and_hazards.md R182). `write 0` issues a
command word (R23). -/
inductive HostTx where
  | write (n : Nat) (v : RegValue)
  | read (n : Nat)
  | reset
  deriving DecidableEq, Repr

/-- HCT has no fault state: "None of them is a fault, a stuck state or a hang" (70_reset_and_hazards.md R196). The type
has no constructor, so no step can fault. Log 15. -/
inductive Fault where
  deriving DecidableEq, Repr

/-- Why a step can be refused. -/
inductive Refusal where
  /-- An instruction with no meaning yet; raised by no arm of `exec`. Safe. -/
  | notModelled (mnemonic : String)
  /-- A HOST_WRITE to register `n` of a value outside the register's type or invariant: "there is no transition for it"
  (70_reset_and_hazards.md R196, D39); or of a path that is not in HCT's form, from a host that breaks duty 3 and so has no
  move (20_memory.md R59, D32). Raised by the host's transaction in `step`, by no instruction. Safe. Log 3, 14. -/
  | hostWrite (n : Nat)
  deriving DecidableEq, Repr

/-- The registers of R21 (CMD is a port and keeps no value, R23), the parameters, the host's side, and the model's own
fields: `tx`, the host's coming transactions, and `readout`, the value its last HOST_READ returned (log 4). -/
structure State where
  status : Word
  din : Bytes
  dout : Bytes
  pos : Nat
  ft : FreqTable
  tree : Tree
  ct : CodeTable
  pk : Bytes
  eff : Byte
  name : Bytes
  kind : BitVec 2
  pin : Bytes
  pout : Bytes
  pdst : Bytes
  pvw : List PreviewItem
  params : Params
  host : HostSide
  tx : List HostTx
  readout : Option RegValue
  deriving DecidableEq, Repr

/-- The reset values of R39 around given parameters, host side, transactions and readout, which RESET leaves as they are
(70_reset_and_hazards.md R182). -/
def State.resetWith (params : Params) (host : HostSide) (tx : List HostTx) (readout : Option RegValue) : State where
  status := 0
  din := []
  dout := []
  pos := 0
  ft := []
  tree := .absent
  ct := []
  pk := []
  eff := 8
  name := []
  kind := 0
  pin := []
  pout := []
  pdst := []
  pvw := []
  params := params
  host := host
  tx := tx
  readout := readout

/-- The machine right after power-on reset (R39, R182): idle, no transaction waiting, the parameters OPEN, the host's
filesystem free (R185). Log 1, 17, 21. -/
def State.reset : State :=
  State.resetWith
    { bufCap := Config.bufCap, walkDepthMax := Config.walkDepthMax, archiveExt := Config.archiveExt }
    { files := fsCanon Config.startFiles, archive := none, trace := [], draws := [], mayChange := Config.hostMayChange }
    [] none

end Sys2Proof.Machine
end

