-- ==== Sys2Proof/Machine/Flags.lean ====
section
/-! DEFINITION. The error kinds, their codes, and STATUS, HCT's only flags (10_state.md R24, R25; 60_exceptions.md R166). -/

namespace Sys2Proof.Machine

/-- The error kinds of R166. -/
inductive Err where
  | notFound
  | unrecognizedFormat
  | truncatedStream
  | unknownSymbol
  | ioFailure
  | malformed
  | capacityExceeded
  | illegalCommand
  deriving DecidableEq, Repr

/-- The code of an error in STATUS.ERR (R166). -/
def errCode : Err → BitVec 4
  | .notFound => 1
  | .unrecognizedFormat => 2
  | .truncatedStream => 3
  | .unknownSymbol => 4
  | .ioFailure => 5
  | .malformed => 6
  | .capacityExceeded => 7
  | .illegalCommand => 8

/-- STATUS with LASTOP = `op` and ERR = `code`, the reserved fields 0 (R24). -/
def statusWord (op : Byte) (code : BitVec 4) : Word :=
  (0 : BitVec 16) ++ op ++ (0 : BitVec 4) ++ code

/-- STATUS.ERR, bits 3:0 (R24). -/
def State.err (s : State) : BitVec 4 := s.status.extractLsb' 0 4

/-- STATUS.LASTOP, bits 15:8 (R24). -/
def State.lastOp (s : State) : Byte := s.status.extractLsb' 8 8

/-- The reserved fields of STATUS, bits 7:4 and 31:16, which read 0 (R24). -/
def State.reservedStatus (s : State) : BitVec 20 := s.status.extractLsb' 16 16 ++ s.status.extractLsb' 4 4

/-- Every issued command writes STATUS exactly once, at its end (R24). -/
def State.setStatus (op : Byte) (code : BitVec 4) (s : State) : State := { s with status := statusWord op code }

end Sys2Proof.Machine
end

