-- ==== Sys2Proof/Machine/Ops.lean ====
section
/-! DEFINITION. The named operations every meaning is made of: register updates, taking an error (60_exceptions.md R169),
appending to DOUT (10_state.md R32), and the field primitives of byte streams (20_memory.md R44 to R48). -/

namespace Sys2Proof.Machine

/-! ## Register updates (00_scope.md R9: `x[R] <- v`) -/

/-- `x[DOUT] <- v`. -/
def State.setDout (v : Bytes) (s : State) : State := { s with dout := v }

/-- `x[POS] <- v`. -/
def State.setPos (v : Nat) (s : State) : State := { s with pos := v }

/-- `x[FT] <- v`. -/
def State.setFt (v : FreqTable) (s : State) : State := { s with ft := v }

/-- `x[TREE] <- v`. -/
def State.setTree (v : Tree) (s : State) : State := { s with tree := v }

/-- `x[CT] <- v`. -/
def State.setCt (v : CodeTable) (s : State) : State := { s with ct := v }

/-- `x[PK] <- v`. -/
def State.setPk (v : Bytes) (s : State) : State := { s with pk := v }

/-- `x[EFF] <- v`. -/
def State.setEff (v : Byte) (s : State) : State := { s with eff := v }

/-- `x[NAME] <- v`. -/
def State.setName (v : Bytes) (s : State) : State := { s with name := v }

/-- `x[KIND] <- v`. -/
def State.setKind (v : BitVec 2) (s : State) : State := { s with kind := v }

/-- `x[PVW] <- v`. -/
def State.setPvw (v : List PreviewItem) (s : State) : State := { s with pvw := v }

/-- The host's side after the requests of an operation command. -/
def State.setHost (v : HostSide) (s : State) : State := { s with host := v }

/-! ## Ending a command (10_state.md R23, R24; 60_exceptions.md R169) -/

/-- Taking an error, HCT's only trap (R169, R175): STATUS gets the error's code and the opcode byte; every register
keeps the value it has in `s`, the state before the command. There is no vector, no saved state, no mode and no return
(R175, R176). -/
def State.abort (op : Byte) (e : Err) (s : State) : State := s.setStatus op (errCode e)

/-- The end of a command that succeeds with the register values of `s`: ERR = 0 (R24). -/
def State.succeed (op : Byte) (s : State) : State := s.setStatus op 0

/-- The end of a command whose registers become those of `r`, or that raised an error (R23, R169). -/
def State.finish (op : Byte) (r : Except Err State) (s : State) : State :=
  match r with
  | .ok t => t.succeed op
  | .error e => s.abort op e

/-- BUF_CAP as a number of bytes (00_scope.md R6). -/
def State.cap (s : State) : Nat := s.params.bufCap.toNat

/-- Append `o` to DOUT, or raise CapacityExceeded and append nothing (10_state.md R32; 20_memory.md R47). -/
def State.appendDout (o : Bytes) (s : State) : Except Err State :=
  if s.dout.length + o.length > s.cap then .error .capacityExceeded else .ok (s.setDout (s.dout ++ o))

/-! ## Reading a stream (20_memory.md R44 to R46): each reader takes the stream and the cursor, and answers the value and
the cursor after it -/

/-- The big-endian value of a byte sequence (R43). -/
def beNat (b : Bytes) : Nat := b.foldl (fun acc x => 256 * acc + x.toNat) 0

/-- `rd_bytes(n)`: all `n` bytes at the cursor, or TruncatedStream (R44, R46). -/
def rdBytes (n : Nat) (s : Bytes) (p : Nat) : Except Err (Bytes × Nat) :=
  if p + n > s.length then .error .truncatedStream else .ok ((s.drop p).take n, p + n)

/-- An `n`-byte big-endian field (R43, R44). -/
def rdUInt (n : Nat) (s : Bytes) (p : Nat) : Except Err (Nat × Nat) := do
  let (b, p) ← rdBytes n s p
  .ok (beNat b, p)

/-- `rd_u8()`, as a byte (R44). -/
def rdU8 (s : Bytes) (p : Nat) : Except Err (Byte × Nat) := do
  let (v, p) ← rdUInt 1 s p
  .ok (BitVec.ofNat 8 v, p)

/-- `rd_u16()` (R44). -/
def rdU16 (s : Bytes) (p : Nat) : Except Err (Nat × Nat) := rdUInt 2 s p

/-- `rd_u32()`, read unsigned (R44). -/
def rdU32 (s : Bytes) (p : Nat) : Except Err (Nat × Nat) := rdUInt 4 s p

/-- `rd_str()`: a 2-byte length, then that many opaque bytes (R45). -/
def rdStr (s : Bytes) (p : Nat) : Except Err (Bytes × Nat) := do
  let (n, p) ← rdU16 s p
  rdBytes n s p

/-! ## Writing fields (20_memory.md R47): each writer answers the bytes it appends -/

/-- The low `n` bytes of `v`, most significant first (R43). -/
def beBytes : Nat → Nat → Bytes
  | 0, _ => []
  | n + 1, v => beBytes n (v / 256) ++ [BitVec.ofNat 8 v]

/-- `wr_u16(v)` (R47). -/
def wrU16 (v : Nat) : Bytes := beBytes 2 v

/-- `wr_u32(v)`: CapacityExceeded above MAX_FIELD (R47, R48). -/
def wrU32 (v : Nat) : Except Err Bytes :=
  if v > Config.maxField then .error .capacityExceeded else .ok (beBytes 4 v)

/-- `wr_str(b)`: CapacityExceeded above MAX_STR (R47). -/
def wrStr (b : Bytes) : Except Err Bytes :=
  if b.length > Config.maxStr then .error .capacityExceeded else .ok (wrU16 b.length ++ b)

/-- Fail with `e` unless the condition holds: a check of a command's pseudocode (60_exceptions.md R170). -/
def require (c : Bool) (e : Err) : Except Err Unit := if c then .ok () else .error e

end Sys2Proof.Machine
end

