-- ==== Sys2Proof/Machine/Operands.lean ====
section
/-! DEFINITION. Operand forms: the tables CT and FT as maps (10_state.md R20), paths (44_container.md R131 to R133), and
the host's access to each register by number (10_state.md R21, R22). -/

namespace Sys2Proof.Machine

/-! ## Maps from byte values, held as ascending lists (log 13) -/

/-- The entry of byte `b` in a map, if it has one. -/
def mapGet {α : Type} (m : List (Byte × α)) (b : Byte) : Option α :=
  match m with
  | [] => none
  | (k, v) :: rest => if k = b then some v else mapGet rest b

/-- The map with `b` mapped to `v` and every other byte as before. -/
def mapSet {α : Type} (b : Byte) (v : α) : List (Byte × α) → List (Byte × α)
  | [] => [(b, v)]
  | (k, w) :: rest =>
    if b = k then (b, v) :: rest
    else if b.toNat < k.toNat then (b, v) :: (k, w) :: rest
    else (k, w) :: mapSet b v rest

/-- The keys ascend strictly, compared unsigned (00_scope.md R7, D12). -/
abbrev Ascending {α : Type} (m : List (Byte × α)) : Prop := m.Pairwise (fun a b => a.1.toNat < b.1.toNat)

/-- `CT(b)` (00_scope.md R9). -/
def codeOf (c : CodeTable) (b : Byte) : Option Bits := mapGet c b

/-- `FT(b)`: the count of byte `b`; an unlisted byte has count 0 (10_state.md R29). -/
def countOf (f : FreqTable) (b : Byte) : Nat := (mapGet f b).getD 0

/-- CT's invariant: a map whose codes have 1 to MAX_CODE_BITS bits (10_state.md R31). -/
abbrev CtWf (c : CodeTable) : Prop :=
  Ascending c ∧ ∀ e ∈ c, 1 ≤ e.2.length ∧ e.2.length ≤ Config.maxCodeBits

/-- FT's invariant: a map whose listed counts are nonzero and below 2^64 (10_state.md R20, R29). -/
abbrev FtWf (f : FreqTable) : Prop := Ascending f ∧ ∀ e ∈ f, 0 < e.2 ∧ e.2 < 2 ^ 64

/-! ## Paths (44_container.md R131 to R133) -/

/-- The segments of a path: its bytes split at every SEP (R131). -/
def segments : Bytes → List Bytes
  | [] => [[]]
  | c :: cs =>
    match segments cs with
    | [] => [[c]]
    | seg :: rest => if c = Config.sep then [] :: seg :: rest else (c :: seg) :: rest

/-- A segment a path may hold: not empty, not `.`, not `..` (R131). -/
def validSegment (q : Bytes) : Bool :=
  q != [] && q != [Config.dot] && q != [Config.dot, Config.dot]

/-- A valid relative path (R131). -/
def validPath (q : Bytes) : Bool := q != [] && (segments q).all validSegment

/-- A valid name: a valid relative path with no SEP (R131). -/
def validName (q : Bytes) : Bool := validPath q && !q.contains Config.sep

/-- `join(a, b)` (R132). -/
def join (a b : Bytes) : Bytes := if a = [] then b else a ++ [Config.sep] ++ b

/-- `last_seg(q)`: the bytes after the last SEP, or all of `q` (R132). -/
def lastSeg (q : Bytes) : Bytes := (segments q).getLastD []

/-- `parent(q)`: the bytes before the last SEP, or none (R132). -/
def parent (q : Bytes) : Bytes := q.take (q.length - ((lastSeg q).length + 1))

/-- Path `q` is a descendant of directory path `d` (R133). -/
def descendant (q d : Bytes) : Bool :=
  decide (q.length > d.length + 1) && q.take d.length == d && q[d.length]? == some Config.sep

/-- A host path in HCT's form: SEP between segments, so none of them is empty (20_memory.md R59 duty 3). The empty path is
one too: it is the host's current directory in PDST and the default output in POUT (46_operations.md R141). Log 3. -/
def hostForm (q : Bytes) : Bool := q == [] || (segments q).all (fun x => x != [])

/-- The same for PIN, whose last segment may be empty: the compression commands answer NotFound for it (46_operations.md
R141, D46). Log 3. -/
def inputForm (q : Bytes) : Bool := (segments q).dropLast.all (fun x => x != [])

/-- Insertion into an ascending list of byte strings. -/
def insertBytes (x : Bytes) : List Bytes → List Bytes
  | [] => [x]
  | y :: ys => if bytesLt y x then y :: insertBytes x ys else x :: y :: ys

/-- `sort_bytes` (00_scope.md R11). -/
def sortBytes (l : List Bytes) : List Bytes := l.foldr insertBytes []

/-! ## The host's access to registers (10_state.md R21, R22) -/

/-- HOST_READ(n): the register's value; the reset value of a W or "-" register; 0 for a number above 15 (R22, D49). -/
def State.hostRead (n : Nat) (s : State) : RegValue :=
  match n with
  | 0 => .word 0
  | 1 => .word s.status
  | 2 => .bytes s.din
  | 3 => .bytes s.dout
  | 4 => .nat s.pos
  | 5 => .freqs s.ft
  | 6 => .noTree
  | 7 => .table s.ct
  | 8 => .bytes s.pk
  | 9 => .byte s.eff
  | 10 => .bytes s.name
  | 11 => .kind s.kind
  | 12 => .bytes s.pin
  | 13 => .bytes s.pout
  | 14 => .bytes s.pdst
  | 15 => .items s.pvw
  | _ => .word 0

/-- HOST_WRITE(n, v) for `n` other than 0: `none` where the value is outside the register's type or invariant (D39,
R196), or a path is not in HCT's form (R59 duty 3, R196, D32). A write to an R or "-" register or to a number above 15 has no effect (R22, D49). -/
def State.hostWrite (n : Nat) (v : RegValue) (s : State) : Option State :=
  match n, v with
  | 2, .bytes b => if b.length ≤ s.cap then some { s with din := b } else none
  | 3, .bytes b => if b.length ≤ s.cap then some { s with dout := b } else none
  | 4, .nat p => if p < 2 ^ 64 then some { s with pos := p } else none
  | 5, .freqs f => if FtWf f then some { s with ft := f } else none
  | 7, .table c => if CtWf c then some { s with ct := c } else none
  | 8, .bytes b => if b.length ≤ s.cap then some { s with pk := b } else none
  | 9, .byte e => some { s with eff := e }
  | 10, .bytes b => if b.length ≤ Config.maxStr then some { s with name := b } else none
  | 12, .bytes b => if inputForm b then some { s with pin := b } else none
  | 13, .bytes b => if hostForm b then some { s with pout := b } else none
  | 14, .bytes b => if hostForm b then some { s with pdst := b } else none
  | 0, _ => none
  | 2, _ => none
  | 3, _ => none
  | 4, _ => none
  | 5, _ => none
  | 7, _ => none
  | 8, _ => none
  | 9, _ => none
  | 10, _ => none
  | 12, _ => none
  | 13, _ => none
  | 14, _ => none
  | _, _ => some s

end Sys2Proof.Machine
end

