-- ==== Sys2Proof/Machine/TreeTable.lean ====
section
/-! DEFINITION. Frequency model, tree builder and code table: FREQ, BUILD, CODES, TRIE, TSER, TDES (41_tree_codetable.md). -/

namespace Sys2Proof.Machine

/-! ## Frequencies (R86) -/

/-- One more occurrence of byte `b`. -/
def bump (f : FreqTable) (b : Byte) : FreqTable := mapSet b (countOf f b + 1) f

/-- The counts of the bytes of `d` (R86). -/
def freqOf (d : Bytes) : FreqTable := d.foldl bump []

/-! ## The tree builder (R87 to R89) -/

/-- A triple of BUILD's queue: frequency, creation sequence number, node (R87). Working state (10_state.md R36). -/
structure Ranked where
  freq : Nat
  seq : Nat
  node : Tree
  deriving DecidableEq, Repr

/-- The total order of the queue: by frequency, then by sequence number (R88). -/
def Ranked.before (x y : Ranked) : Bool :=
  decide (x.freq < y.freq) || (decide (x.freq = y.freq) && decide (x.seq < y.seq))

/-- `Q.insert`: the queue is kept in the order of R88, so `remove_min` takes its head. -/
def enqueue (x : Ranked) : List Ranked → List Ranked
  | [] => [x]
  | y :: ys => if x.before y then x :: y :: ys else y :: enqueue x ys

/-- The present symbols with their counts, ascending (R87). -/
def present (f : FreqTable) : FreqTable := f.filter (fun e => decide (0 < e.2))

/-- The leaves, numbered from `seq` in ascending byte order, put into the queue (R87). -/
def enqueueLeaves : Nat → FreqTable → List Ranked → List Ranked
  | _, [], q => q
  | seq, (b, n) :: rest, q => enqueueLeaves (seq + 1) rest (enqueue ⟨n, seq, .leaf b⟩ q)

/-- The merging loop: the two least nodes become one, the first removed on the left, until one is left (R87). Each round
shortens the queue by one, so a fuel of its length is never used up (`mergeAll_fuel`). -/
def mergeAll : Nat → Nat → List Ranked → Tree
  | _, _, [] => .absent
  | _, _, [x] => x.node
  | 0, _, _ => .absent
  | fuel + 1, seq, x :: y :: q =>
    mergeAll fuel (seq + 1) (enqueue ⟨x.freq + y.freq, seq, .inner x.node y.node⟩ q)

/-- `build_tree(F)` (R87): none for no symbol, `Inner(Leaf(b), none)` for one (R89), the Huffman tree otherwise. -/
def buildTree (f : FreqTable) : Tree :=
  match present f with
  | [] => .absent
  | [(b, _)] => .inner (.leaf b) .absent
  | ps => mergeAll ps.length ps.length (enqueueLeaves 0 ps [])

/-! ## Codes from the tree (R91) -/

/-- `visit(n, path)` on top of the entries found so far (R91). -/
def visit : Tree → Bits → CodeTable → CodeTable
  | .absent, _, c => c
  | .leaf b, path, c => mapSet b path c
  | .inner l r, path, c => visit r (path ++ [true]) (visit l (path ++ [false]) c)

/-- `codes_of(t)` (R91). -/
def codesOf : Tree → Except Err CodeTable
  | .absent => .ok []
  | .leaf _ => .error .malformed
  | t@(.inner _ _) => .ok (visit t [] [])

/-! ## The trie of a table (R93) -/

/-- Place symbol `b` at the end of the bits in the child slot `t`: Malformed when the slot at the end is taken, or when a
leaf stands on the way (R93). -/
def place (b : Byte) : Tree → Bits → Except Err Tree
  | .absent, [] => .ok (.leaf b)
  | .leaf _, [] => .error .malformed
  | .inner _ _, [] => .error .malformed
  | .absent, false :: cs => do
    let l ← place b .absent cs
    .ok (.inner l .absent)
  | .absent, true :: cs => do
    let r ← place b .absent cs
    .ok (.inner .absent r)
  | .leaf _, _ :: _ => .error .malformed
  | .inner l r, false :: cs => do
    let l ← place b l cs
    .ok (.inner l r)
  | .inner l r, true :: cs => do
    let r ← place b r cs
    .ok (.inner l r)

/-- Place every code of the table, in ascending byte order, into the tree `t` (R93). -/
def placeAll : CodeTable → Tree → Except Err Tree
  | [], t => .ok t
  | (b, c) :: rest, t => do
    let t ← place b t c
    placeAll rest t

/-- `to_trie(C)` (R93): none for the empty table (D51), Malformed for a table that is not prefix-free. -/
def toTrie (c : CodeTable) : Except Err Tree :=
  match c with
  | [] => .ok .absent
  | _ :: _ => placeAll c (.inner .absent .absent)

/-! ## Serialization (R95) and deserialization (R97) -/

/-- One code bit as a 2-byte unit: `00 30` or `00 31` (30_encoding.md R78). -/
def bitUnit (x : Bool) : Bytes := wrU16 (if x then 0x0031 else 0x0030)

/-- One table entry: byteValue, codeBitLength, codeBits (R95). -/
def tserEntry (e : Byte × Bits) : Except Err Bytes := do
  let len ← wrU32 e.2.length
  .ok (e.1 :: (len ++ e.2.flatMap bitUnit))

/-- The entries in the order given. -/
def tserEntries : CodeTable → Except Err Bytes
  | [] => .ok []
  | e :: rest => do
    let x ← tserEntry e
    let xs ← tserEntries rest
    .ok (x ++ xs)

/-- `tser(C)`: entryCount, then the entries ascending by byte value (R95). -/
def tser (c : CodeTable) : Except Err Bytes := do
  let n ← wrU32 c.length
  let es ← tserEntries c
  .ok (n ++ es)

/-- The bit a 2-byte unit holds; any other unit is Malformed (R97; 30_encoding.md R78). -/
def unitBit (u : Nat) : Except Err Bool :=
  if u = 0x0030 then .ok false else if u = 0x0031 then .ok true else .error .malformed

/-- `L` code-bit units (R97). -/
def rdBits : Nat → Bytes → Nat → Except Err (Bits × Nat)
  | 0, _, p => .ok ([], p)
  | n + 1, s, p => do
    let (u, p) ← rdU16 s p
    let bit ← unitBit u
    let (bits, p) ← rdBits n s p
    .ok (bit :: bits, p)

/-- The `n` entries of a serialized table, added to the entries read before (R97). -/
def tdesEntries : Nat → Bytes → Nat → CodeTable → Except Err (CodeTable × Nat)
  | 0, _, p, c => .ok (c, p)
  | n + 1, s, p, c => do
    let (b, p) ← rdU8 s p
    let (len, p) ← rdU32 s p
    require (len != 0 && decide (len ≤ Config.maxCodeBits)) .malformed
    require (decide (2 * len ≤ s.length - p)) .truncatedStream
    let (bits, p) ← rdBits len s p
    require (codeOf c b).isNone .malformed
    tdesEntries n s p (mapSet b bits c)

/-- `tdes(s, p)` (R97), with the checks in its order (R98). -/
def tdes (s : Bytes) (p : Nat) : Except Err (CodeTable × Nat) := do
  let (n, p) ← rdU32 s p
  require (decide (n ≤ Config.maxEntries)) .malformed
  require (decide (5 * n ≤ s.length - p)) .truncatedStream
  tdesEntries n s p []

/-! ## The commands -/

/-- The registers after FREQ (R86). -/
def freqRegs (s : State) : Except Err State := .ok (s.setFt (freqOf s.din))

/-- The registers after BUILD (R90). -/
def buildRegs (s : State) : Except Err State := .ok (s.setTree (buildTree s.ft))

/-- The registers after CODES (R92). -/
def codesRegs (s : State) : Except Err State := do
  let c ← codesOf s.tree
  .ok (s.setCt c)

/-- The registers after TRIE (R94). -/
def trieRegs (s : State) : Except Err State := do
  let t ← toTrie s.ct
  .ok (s.setTree t)

/-- The registers after TSER (R96). -/
def tserRegs (s : State) : Except Err State := do
  let o ← tser s.ct
  s.appendDout o

/-- The registers after TDES (R99). -/
def tdesRegs (s : State) : Except Err State := do
  let (c, p) ← tdes s.din s.pos
  .ok ((s.setCt c).setPos p)

/-- FREQ (R86). -/
def execFreq (s : State) : Host.Outcome State Fault Refusal := .next (s.finish (opcode .freq) (freqRegs s))

/-- BUILD (R90). -/
def execBuild (s : State) : Host.Outcome State Fault Refusal := .next (s.finish (opcode .build) (buildRegs s))

/-- CODES (R92). -/
def execCodes (s : State) : Host.Outcome State Fault Refusal := .next (s.finish (opcode .codes) (codesRegs s))

/-- TRIE (R94). -/
def execTrie (s : State) : Host.Outcome State Fault Refusal := .next (s.finish (opcode .trie) (trieRegs s))

/-- TSER (R96). -/
def execTser (s : State) : Host.Outcome State Fault Refusal := .next (s.finish (opcode .tser) (tserRegs s))

/-- TDES (R99). -/
def execTdes (s : State) : Host.Outcome State Fault Refusal := .next (s.finish (opcode .tdes) (tdesRegs s))

end Sys2Proof.Machine
end

