-- ==== Sys2Proof/Machine/BitPack.lean ====
section
/-! DEFINITION. Bit packer and bit unpacker: PACK, UNPACK (42_bitpack.md). -/

namespace Sys2Proof.Machine

/-! ## PACK (R105) -/

/-- The code bits of the bytes of `d`, in order; UnknownSymbol at the first byte without a code (R105, R112). -/
def codeBits (c : CodeTable) : Bytes → Except Err Bits
  | [] => .ok []
  | b :: rest =>
    match codeOf c b with
    | none => .error .unknownSymbol
    | some code => do
      let bits ← codeBits c rest
      .ok (code ++ bits)

/-- The accumulating byte `acc` holding `k` bits takes the bits in order: the bytes emitted and the number of meaningful
bits in the last one, 8 when no bits are left over (R105). -/
def packBits : Nat → Nat → Bits → Bytes × Byte
  | acc, k, [] => if 0 < k then ([BitVec.ofNat 8 (acc * 2 ^ (8 - k))], BitVec.ofNat 8 k) else ([], 8)
  | acc, k, x :: xs =>
    let acc' := 2 * acc + x.toNat
    if k + 1 = 8 then
      let (out, e) := packBits 0 0 xs
      (BitVec.ofNat 8 acc' :: out, e)
    else packBits acc' (k + 1) xs

/-- `pack(d, C)` (R105): CapacityExceeded above MAX_FIELD bytes. -/
def pack (d : Bytes) (c : CodeTable) : Except Err (Bytes × Byte) := do
  let bits ← codeBits c d
  let (out, e) := packBits 0 0 bits
  require (decide (out.length ≤ Config.maxField)) .capacityExceeded
  .ok (out, e)

/-! ## UNPACK (R107) -/

/-- An effective-bit count is 1 to 8 (10_state.md R26). -/
def validEff (e : Byte) : Bool := decide (1 ≤ e.toNat) && decide (e.toNat ≤ 8)

/-- `nbits(n, e)`: the number of meaningful bits of `n` packed bytes (20_memory.md R53). -/
def nbits (n e : Nat) : Nat := if n = 0 then 0 else 8 * (n - 1) + e

/-- The bits of a byte, bit 7 first (20_memory.md R43). -/
def byteBits (b : Byte) : Bits := (List.range 8).map (fun j => b.getLsbD (7 - j))

/-- The child of a node on side `bit`: 0 is left, 1 is right (R107). -/
def Tree.child : Tree → Bool → Tree
  | .inner l _, false => l
  | .inner _ r, true => r
  | .absent, _ => .absent
  | .leaf _, _ => .absent

/-- The walk of the bits from node `n` of the tree `t`; `atRoot` says that no bit of a code is open (R107). -/
def walkBits (t : Tree) : Tree → Bool → Bits → Except Err Bytes
  | _, atRoot, [] => if atRoot then .ok [] else .error .malformed
  | n, _, bit :: bits =>
    match n.child bit with
    | .absent => .error .malformed
    | .leaf b => do
      let out ← walkBits t t true bits
      .ok (b :: out)
    | .inner l r => walkBits t (.inner l r) false bits

/-- `unpack(pk, e, t)` (R107). -/
def unpack (pk : Bytes) (e : Byte) (t : Tree) : Except Err Bytes := do
  require (validEff e) .malformed
  let n := nbits pk.length e.toNat
  require (!(decide (0 < n) && t == .absent)) .malformed
  walkBits t t true ((pk.flatMap byteBits).take n)

/-! ## The commands -/

/-- The registers after PACK (R106). -/
def packRegs (s : State) : Except Err State := do
  let (o, e) ← pack s.din s.ct
  require (decide (o.length ≤ s.cap)) .capacityExceeded
  .ok ((s.setPk o).setEff e)

/-- The registers after UNPACK (R108). -/
def unpackRegs (s : State) : Except Err State := do
  let o ← unpack s.pk s.eff s.tree
  s.appendDout o

/-- PACK (R106). -/
def execPack (s : State) : Host.Outcome State Fault Refusal := .next (s.finish (opcode .pack) (packRegs s))

/-- UNPACK (R108). -/
def execUnpack (s : State) : Host.Outcome State Fault Refusal := .next (s.finish (opcode .unpack) (unpackRegs s))

end Sys2Proof.Machine
end

