-- ==== Sys2Proof/Machine/FileCodec.lean ====
section
/-! DEFINITION. Per-file codec and payload frame: FENC, FDEC, PWR, PRD, PSKIP (43_filecodec.md). -/

namespace Sys2Proof.Machine

/-! ## The payload frame (R116, R118, R120) -/

/-- `frame_write(pk, e, C)` (R116). -/
def frameWrite (pk : Bytes) (e : Byte) (c : CodeTable) : Except Err Bytes := do
  require (validEff e) .malformed
  let len ← wrU32 pk.length
  let table ← tser c
  .ok (len ++ [e] ++ table ++ pk)

/-- A payload frame's fields: codeTable, effectiveBitsLastByte, packedBytes (30_encoding.md R75). -/
structure Frame where
  table : CodeTable
  eff : Byte
  packed : Bytes
  deriving DecidableEq, Repr

/-- `frame_read(s, p)` (R118). -/
def frameRead (s : Bytes) (p : Nat) : Except Err (Frame × Nat) := do
  let (len, p) ← rdU32 s p
  require (decide (len ≤ Config.maxField)) .malformed
  let (e, p) ← rdU8 s p
  require (validEff e) .malformed
  let (c, p) ← tdes s p
  let (pk, p) ← rdBytes len s p
  .ok (⟨c, e, pk⟩, p)

/-- The `n` table entries of a frame, stepped over (R120). -/
def skipEntries : Nat → Bytes → Nat → Except Err Nat
  | 0, _, p => .ok p
  | n + 1, s, p => do
    let (_, p) ← rdU8 s p
    let (len, p) ← rdU32 s p
    let (_, p) ← rdBytes (2 * len) s p
    skipEntries n s p

/-- `frame_skip(s, p)` (R120): no value is checked. -/
def frameSkip (s : Bytes) (p : Nat) : Except Err Nat := do
  let (len, p) ← rdU32 s p
  let (_, p) ← rdU8 s p
  let (n, p) ← rdU32 s p
  let p ← skipEntries n s p
  let (_, p) ← rdBytes len s p
  .ok p

/-! ## The commands -/

/-- The registers after FENC (R114). -/
def fencRegs (s : State) : Except Err State := do
  let f := freqOf s.din
  let t := buildTree f
  let c ← codesOf t
  let (o, e) ← pack s.din c
  require (decide (o.length ≤ s.cap)) .capacityExceeded
  .ok (((((s.setFt f).setTree t).setCt c).setPk o).setEff e)

/-- The registers after FDEC (R115). -/
def fdecRegs (s : State) : Except Err State := do
  let t ← toTrie s.ct
  let o ← unpack s.pk s.eff t
  let s' ← s.appendDout o
  .ok (s'.setTree t)

/-- The registers after PWR (R117). -/
def pwrRegs (s : State) : Except Err State := do
  let o ← frameWrite s.pk s.eff s.ct
  s.appendDout o

/-- The registers after PRD (R119). -/
def prdRegs (s : State) : Except Err State := do
  let (f, p) ← frameRead s.din s.pos
  .ok ((((s.setCt f.table).setEff f.eff).setPk f.packed).setPos p)

/-- The registers after PSKIP (R121). -/
def pskipRegs (s : State) : Except Err State := do
  let p ← frameSkip s.din s.pos
  .ok (s.setPos p)

/-- FENC (R114). -/
def execFenc (s : State) : Host.Outcome State Fault Refusal := .next (s.finish (opcode .fenc) (fencRegs s))

/-- FDEC (R115). -/
def execFdec (s : State) : Host.Outcome State Fault Refusal := .next (s.finish (opcode .fdec) (fdecRegs s))

/-- PWR (R117). -/
def execPwr (s : State) : Host.Outcome State Fault Refusal := .next (s.finish (opcode .pwr) (pwrRegs s))

/-- PRD (R119). -/
def execPrd (s : State) : Host.Outcome State Fault Refusal := .next (s.finish (opcode .prd) (prdRegs s))

/-- PSKIP (R121). -/
def execPskip (s : State) : Host.Outcome State Fault Refusal := .next (s.finish (opcode .pskip) (pskipRegs s))

end Sys2Proof.Machine
end

