-- ==== Sys2Proof/Machine/Container.lean ====
section
/-! DEFINITION. Container entries and the archive header: EWR, ERD (44_container.md) and HWR, HRD (45_archive_header.md). -/

namespace Sys2Proof.Machine

/-! ## Entries (44_container.md R126, R128, R130) -/

/-- The directory entry's tag, `"F"` (30_encoding.md R74). -/
def tagDir : Bytes := [0x46]

/-- The file entry's tag, `"FI"` (30_encoding.md R74). -/
def tagFile : Bytes := [0x46, 0x49]

/-- `entry_write(0, path, -, -, -)` (R126). -/
def dirEntry (path : Bytes) : Except Err Bytes := do
  let tag ← wrStr tagDir
  let q ← wrStr path
  .ok (tag ++ q)

/-- `entry_write(1, path, pk, e, C)` (R126). -/
def fileEntry (path : Bytes) (f : Frame) : Except Err Bytes := do
  let tag ← wrStr tagFile
  let q ← wrStr path
  let fr ← frameWrite f.packed f.eff f.table
  .ok (tag ++ q ++ fr)

/-- What `entry_read` finds (R128); `φ` is what it keeps of a file entry's payload. -/
inductive Entry (φ : Type) where
  | stop
  | dir (path : Bytes)
  | file (path : Bytes) (payload : φ)
  deriving DecidableEq, Repr

/-- `entry_read` with the reader of payload frames it is given (R128, R130). -/
def entryReadWith {φ : Type} (payload : Bytes → Nat → Except Err (φ × Nat)) (s : Bytes) (p : Nat) :
    Except Err (Entry φ × Nat) :=
  if p = s.length then .ok (.stop, p)
  else do
    let (tag, p) ← rdStr s p
    if tag = tagDir then do
      let (path, p) ← rdStr s p
      .ok (.dir path, p)
    else if tag = tagFile then do
      let (path, p) ← rdStr s p
      let (f, p) ← payload s p
      .ok (.file path f, p)
    else .error .malformed

/-- `entry_read(s, p)` (R128). -/
def entryRead (s : Bytes) (p : Nat) : Except Err (Entry Frame × Nat) := entryReadWith frameRead s p

/-- `entry_skip(s, p)` (R130). -/
def entrySkip (s : Bytes) (p : Nat) : Except Err (Entry Unit × Nat) :=
  entryReadWith (fun s p => do
    let p ← frameSkip s p
    .ok ((), p)) s p

/-! ## The archive header (45_archive_header.md R135, R136) -/

/-- `sig(0)` = "HFILE" and `sig(1)` = "HFOLD" (R135; 30_encoding.md R72). -/
def signature (fold : Bool) : Bytes :=
  if fold then [0x48, 0x46, 0x4F, 0x4C, 0x44] else [0x48, 0x46, 0x49, 0x4C, 0x45]

/-- `sig(K) ++ str(name)` (R135, R137). -/
def headerWrite (fold : Bool) (name : Bytes) : Except Err Bytes := do
  let n ← wrStr name
  .ok (signature fold ++ n)

/-- `header_read(s, p, K)`: the signature is checked before anything else is read (R136). -/
def headerRead (s : Bytes) (p : Nat) (fold : Bool) : Except Err (Bytes × Nat) := do
  require (decide (p + 5 ≤ s.length) && (s.drop p).take 5 == signature fold) .unrecognizedFormat
  rdStr s (p + 5)

/-! ## The commands -/

/-- The registers after EWR DIR (R127, K = 0). -/
def ewrDirRegs (s : State) : Except Err State := do
  let o ← dirEntry s.name
  s.appendDout o

/-- The registers after EWR FILE (R127, K = 1). -/
def ewrFileRegs (s : State) : Except Err State := do
  let o ← fileEntry s.name ⟨s.ct, s.eff, s.pk⟩
  s.appendDout o

/-- The registers after ERD: KIND 0 END, 1 DIR, 2 FILE (R129; 10_state.md R28). -/
def erdRegs (s : State) : Except Err State := do
  let (e, p) ← entryRead s.din s.pos
  match e with
  | .stop => .ok (s.setKind 0)
  | .dir path => .ok (((s.setKind 1).setName path).setPos p)
  | .file path f =>
    .ok ((((((s.setKind 2).setName path).setPos p).setCt f.table).setEff f.eff).setPk f.packed)

/-- The registers after HWR of kind K (45_archive_header.md R137). -/
def hwrRegs (fold : Bool) (s : State) : Except Err State := do
  let o ← headerWrite fold s.name
  s.appendDout o

/-- The registers after HRD of kind K (45_archive_header.md R138). -/
def hrdRegs (fold : Bool) (s : State) : Except Err State := do
  let (n, p) ← headerRead s.din s.pos fold
  .ok ((s.setName n).setPos p)

/-- EWR DIR (R127). -/
def execEwrDir (s : State) : Host.Outcome State Fault Refusal := .next (s.finish (opcode .ewrDir) (ewrDirRegs s))

/-- EWR FILE (R127). -/
def execEwrFile (s : State) : Host.Outcome State Fault Refusal := .next (s.finish (opcode .ewrFile) (ewrFileRegs s))

/-- ERD (R129). -/
def execErd (s : State) : Host.Outcome State Fault Refusal := .next (s.finish (opcode .erd) (erdRegs s))

/-- HWR FILE (45_archive_header.md R137). -/
def execHwrFile (s : State) : Host.Outcome State Fault Refusal := .next (s.finish (opcode .hwrFile) (hwrRegs false s))

/-- HWR FOLD (45_archive_header.md R137). -/
def execHwrFold (s : State) : Host.Outcome State Fault Refusal := .next (s.finish (opcode .hwrFold) (hwrRegs true s))

/-- HRD FILE (45_archive_header.md R138). -/
def execHrdFile (s : State) : Host.Outcome State Fault Refusal := .next (s.finish (opcode .hrdFile) (hrdRegs false s))

/-- HRD FOLD (45_archive_header.md R138). -/
def execHrdFold (s : State) : Host.Outcome State Fault Refusal := .next (s.finish (opcode .hrdFold) (hrdRegs true s))

end Sys2Proof.Machine
end

