-- ==== Sys2Proof/Machine/HostFs.lean ====
section
/-! DEFINITION. The host as the second agent (20_memory.md R57 to R62): what it answers to a request and what the request
does to its filesystem. The reply is a draw within the host's duties (R59); a failed write leaves a draw (R61). -/

namespace Sys2Proof.Machine

/-! ## The filesystem seen by a request -/

/-- The ancestors of a path that end before a SEP after `pre`, outermost first, then the path itself. -/
def pathChainFrom (pre : Bytes) : Bytes → List Bytes
  | [] => [pre]
  | c :: cs =>
    let rest := pathChainFrom (pre ++ [c]) cs
    if c = Config.sep && pre != [] then pre :: rest else rest

/-- The ancestors of a path, outermost first, then the path itself. -/
def pathChain (p : Bytes) : List Bytes := pathChainFrom [] p

/-- The directories that are missing along `p`, ancestors before descendants (R57, R61). -/
def missingDirs (fs : FileSystem) (p : Bytes) : List Bytes := (pathChain p).filter (fun a => (fsLookup fs a).isNone)

/-- The filesystem with the listed directories created. -/
def makeDirs (ds : List Bytes) (fs : FileSystem) : FileSystem := ds.foldl (fun acc d => fsInsert d .dir acc) fs

/-- The name by which `k` is a child of directory `d`, if it is one: `k = join(d, nm)` for a segment `nm` that is not `.`
or `..` (R59 duty 1). -/
def childName (d k : Bytes) : Option Bytes :=
  let nm := if d = [] then k else k.drop (d.length + 1)
  if validName nm && k == join d nm then some nm else none

/-- The children of directory `d`, each once (R38, R59 duty 1). -/
def children (fs : FileSystem) (d : Bytes) : List Bytes := (fs.filterMap (fun e => childName d e.1)).dedup

/-- The same names in the order the host draws: `first` first (U11). -/
def arrange (first names : List Bytes) : List Bytes :=
  first.dedup.filter (fun n => names.contains n) ++ names.filter (fun n => !first.contains n)

/-! ## Serving one request -/

/-- The draw of the next reply: the first one listed, and past the list a free value (log 2). -/
def HostSide.draw (h : HostSide) : Draw := h.draws.headD (Config.freeDraw h.trace.length)

/-- The filesystem the request finds. Under duty 4 it is the one the last request left; where the duty is lifted the host
may have changed it (R59, R188). -/
def HostSide.found (h : HostSide) : FileSystem :=
  if h.mayChange then
    match h.draw.edit with
    | some fs => fsCanon fs
    | none => h.files
  else h.files

/-- The reply of H_READ of an entry that holds `b`: all its bytes, however many, or MISSING where the host draws that
(R57). -/
def readReply (d : Draw) (b : Bytes) : HostReply := if d.view = .missing then .missing else .data b

/-- What H_STAT answers for a view (R57, R59). -/
def viewReply : View → HostReply
  | .file => .file
  | .dir => .dir
  | .missing => .missing

/-- The host's reply to a request that finds `fs`: every reply R57 lists, within the duties of R59.
H_STAT answers FILE or DIR for an existing entry (duty 2), and any of the three for a link or special file (U12); OK or
IOFAIL answers a write request whatever the path names (U9, U24). -/
def replyTo (d : Draw) (fs : FileSystem) (q : HostReq) : HostReply :=
  if d.fail then .ioFail
  else
    match q with
    | .stat p =>
      match fsLookup fs p with
      | none => .missing
      | some (.file _) => .file
      | some .dir => .dir
      | some (.special _) => viewReply d.view
    | .list p => .names (arrange d.listing (children fs p))
    | .read p =>
      match fsLookup fs p with
      | none => .missing
      | some (.file b) => readReply d b
      | some (.special b) => readReply d b
      | some .dir =>
        match d.dirData with
        | some b => .data b
        | none => .missing
    | .create _ => .ok
    | .append _ => .ok
    | .close => .ok
    | .mkdirs _ => .ok
    | .writeFile _ _ => .ok

/-- The filesystem with `b` appended to the archive at `p`. DESIGN CHOICE, log 9: where duty 4 is lifted and `p` no longer
names the file H_CREATE made, a link or special file there stays one with `b` added to its bytes, and a directory or nothing
there becomes a file that holds `b`. -/
def appendTo (p b : Bytes) (fs : FileSystem) : FileSystem :=
  match fsLookup fs p with
  | some (.file c) => fsInsert p (.file (c ++ b)) fs
  | some (.special c) => fsInsert p (.special (c ++ b)) fs
  | _ => fsInsert p (.file b) fs

/-- The filesystem after a request answered OK or with data (R57, last column). Where the path named something else before,
the request's effect wins (46_operations.md R155). Log 7. -/
def filesOnOk (a : Option Bytes) (q : HostReq) (fs : FileSystem) : FileSystem :=
  match q with
  | .create p => fsInsert p (.file []) fs
  | .append b =>
    match a with
    | some p => appendTo p b fs
    | none => fs
  | .mkdirs p => fsInsert p .dir (makeDirs (missingDirs fs p) fs)
  | .writeFile p b => fsInsert p (.file b) fs
  | _ => fs

/-- The filesystem after a request answered IOFAIL, by what the host drew of the effect (R61). -/
def filesOnFail (landed : Option Nat) (a : Option Bytes) (q : HostReq) (fs : FileSystem) : FileSystem :=
  match landed with
  | none => fs
  | some k =>
    match q with
    | .create p => fsInsert p (.file []) fs
    | .append b =>
      match a with
      | some p => appendTo p (b.take k) fs
      | none => fs
    | .mkdirs p => makeDirs ((missingDirs fs p).take k) fs
    | .writeFile p b => fsInsert p (.file (b.take k)) fs
    | _ => fs

/-- The open output archive after a request (46_operations.md R162, R163). -/
def archiveAfter (a : Option Bytes) (q : HostReq) (r : HostReply) : Option Bytes :=
  match q, r with
  | .create p, .ok => some p
  | .create _, _ => none
  | .close, _ => none
  | _, _ => a

/-- The reply to request `q`. -/
def HostSide.reply (h : HostSide) (q : HostReq) : HostReply := replyTo h.draw h.found q

/-- The host's side after request `q`: its effect, the request and the reply on the trace (R17), one draw used. -/
def HostSide.after (h : HostSide) (q : HostReq) : HostSide where
  files :=
    if h.reply q = .ioFail then filesOnFail h.draw.landed h.archive q h.found
    else filesOnOk h.archive q h.found
  archive := archiveAfter h.archive q (h.reply q)
  trace := h.trace ++ [(q, h.reply q)]
  draws := h.draws.tail
  mayChange := h.mayChange

/-! ## Programs of requests: an action takes the host's side and answers a value or an error, and the host's side after
(00_scope.md R10, R11) -/

/-- A part of an operation command. -/
abbrev Act (α : Type) := HostSide → Except Err α × HostSide

/-- No request, the value `a`. -/
def Act.pure {α : Type} (a : α) : Act α := fun h => (.ok a, h)

/-- `raise e` (R10). -/
def Act.raise {α : Type} (e : Err) : Act α := fun h => (.error e, h)

/-- A computation without requests. -/
def Act.lift {α : Type} (r : Except Err α) : Act α := fun h => (r, h)

/-- First `x`, then `f` of its value; an error of `x` ends both (60_exceptions.md R169, R170). -/
def Act.bind {α β : Type} (x : Act α) (f : α → Act β) : Act β := fun h =>
  match x h with
  | (.ok a, h') => f a h'
  | (.error e, h') => (.error e, h')

/-- `host H_X(args) -> r` (R11). -/
def ask (q : HostReq) : Act HostReply := fun h => (.ok (h.reply q), h.after q)

/-- A request whose only bad reply is IOFAIL, which raises IOFailure (R57). -/
def demand (q : HostReq) : Act Unit :=
  (ask q).bind fun r => if r = .ioFail then Act.raise .ioFailure else Act.pure ()

/-- Run `body` with the archive open: an error of it first issues H_CLOSE, whose reply is ignored, and then ends with the
original error (46_operations.md R163). -/
def closingOnError {α : Type} (body : Act α) : Act α := fun h =>
  match body h with
  | (.ok a, h') => (.ok a, h')
  | (.error e, h') => (.error e, h'.after .close)

end Sys2Proof.Machine
end

