-- ==== Sys2Proof/Machine/Operations.lean ====
section
/-! DEFINITION. The operation commands: CFILE, DFILE, CDIR, DDIR, PREV (46_operations.md). Each works on private values
(10_state.md R37) and reaches the filesystem only through requests (20_memory.md R57). -/

namespace Sys2Proof.Machine

/-! ## Common parts -/

/-- The output path: POUT, or PIN with ARCHIVE_EXT when POUT is empty (R141). -/
def outPath (ext pin pout : Bytes) : Bytes := if pout = [] then pin ++ ext else pout

/-- `read_file(path)` (R143). -/
def readFile (path : Bytes) : Act Bytes :=
  (ask (.read path)).bind fun r =>
    match r with
    | .data b => Act.pure b
    | .ioFail => Act.raise .ioFailure
    | _ => Act.raise .notFound

/-- `read_file` of an archive that field primitives then read: a private stream, which holds at most BUF_CAP bytes
(20_memory.md R42). `e` is the error where the bytes are longer, CapacityExceeded but for PREV, which never raises it
(60_exceptions.md R172). DESIGN CHOICE, log 11. -/
def readArchive (cap : Nat) (e : Err) (path : Bytes) : Act Bytes :=
  (readFile path).bind fun a => if a.length ≤ cap then Act.pure a else Act.raise e

/-- The encoding of `encode_host_file` once both passes are read: codes from the first, packing of the second (R143). -/
def encodePasses (cap : Nat) (d1 d2 : Bytes) : Except Err Frame := do
  let c ← codesOf (buildTree (freqOf d1))
  let (pk, e) ← pack d2 c
  require (decide (pk.length ≤ cap)) .capacityExceeded
  .ok ⟨c, e, pk⟩

/-- `encode_host_file(path)`: two H_READ requests (R143). -/
def encodeHostFile (cap : Nat) (path : Bytes) : Act Frame :=
  (readFile path).bind fun d1 =>
    (readFile path).bind fun d2 => Act.lift (encodePasses cap d1 d2)

/-- The decoding of one payload, held whole before any write; more than BUF_CAP bytes are CapacityExceeded (R144, R151;
60_exceptions.md R172). Log 10. -/
def decodePayload (cap : Nat) (f : Frame) : Except Err Bytes := do
  let t ← toTrie f.table
  let d ← unpack f.packed f.eff t
  require (decide (d.length ≤ cap)) .capacityExceeded
  .ok d

/-- A stream a command builds in private holds at most BUF_CAP bytes (20_memory.md R42), and an append that would pass
BUF_CAP is CapacityExceeded (60_exceptions.md R167). Log 11. -/
def privateStream (cap : Nat) (r : Except Err Bytes) : Except Err Bytes := do
  let o ← r
  require (decide (o.length ≤ cap)) .capacityExceeded
  .ok o

/-- `emit(b)` (R145). -/
def emit (b : Bytes) : Act Unit := demand (.append b)

/-- `emit` of a stream the command builds first. -/
def emitBuilt (cap : Nat) (r : Except Err Bytes) : Act Unit := (Act.lift (privateStream cap r)).bind emit

/-- `write_archive(out, o)` (R162 to R164). -/
def writeArchive (out o : Bytes) : Act Unit :=
  (demand (.create out)).bind fun _ =>
    (closingOnError (emit o)).bind fun _ => demand .close

/-! ## CFILE (R142) -/

/-- The whole single-file archive of CFILE, built before any output exists (R142, R164; 30_encoding.md R79). -/
def fileArchive (name : Bytes) (f : Frame) : Except Err Bytes := do
  let h ← headerWrite false name
  let fr ← frameWrite f.packed f.eff f.table
  .ok (h ++ fr)

/-- CFILE's requests (R142). -/
def compressFile (cap : Nat) (ext pin pout : Bytes) : Act Unit :=
  (ask (.stat pin)).bind fun r =>
    match r with
    | .ioFail => Act.raise .ioFailure
    | .file =>
      if validName (lastSeg pin) then
        (encodeHostFile cap pin).bind fun f =>
          (Act.lift (privateStream cap (fileArchive (lastSeg pin) f))).bind fun o => writeArchive (outPath ext pin pout) o
      else Act.raise .notFound
    | _ => Act.raise .notFound

/-! ## DFILE (R144) -/

/-- The decoding of a single-file archive: its name and the file's bytes (R144, up to the write). -/
def openFileArchive (cap : Nat) (a : Bytes) : Except Err (Bytes × Bytes) := do
  let (name, p) ← headerRead a 0 false
  require (validName name) .malformed
  let (f, p) ← frameRead a p
  require (p == a.length) .malformed
  let d ← decodePayload cap f
  .ok (name, d)

/-- DFILE's requests (R144). -/
def decompressFile (cap : Nat) (pin pdst : Bytes) : Act Unit :=
  (readArchive cap .capacityExceeded pin).bind fun a =>
    (Act.lift (openFileArchive cap a)).bind fun nd => demand (.writeFile (join pdst nd.1) nd.2)

/-! ## CDIR (R145 to R149) -/

/-- The steps of a walk for each child name in the order given, stopping at the first error. -/
def forNames (step : Bytes → Act Unit) : List Bytes → Act Unit
  | [] => Act.pure ()
  | nm :: rest => (step nm).bind fun _ => forNames step rest

/-- The names of an H_LIST reply, sorted (R146, R147). -/
def listNames (dir : Bytes) : Act (List Bytes) :=
  (ask (.list dir)).bind fun r =>
    match r with
    | .names ns => Act.pure (sortBytes ns)
    | _ => Act.raise .ioFailure

/-- `walk(dir, rel, level)` with `levels` = WALK_DEPTH_MAX - level + 1 levels left: at 0 the level is past the limit
(R146, R149). -/
def walk (cap : Nat) : Nat → Bytes → Bytes → Act Unit
  | 0, _, _ => Act.raise .capacityExceeded
  | levels + 1, dir, rel =>
    (listNames dir).bind fun ns =>
      forNames
        (fun nm =>
          (ask (.stat (join dir nm))).bind fun k =>
            match k with
            | .ioFail => Act.raise .ioFailure
            | .dir =>
              (emitBuilt cap (dirEntry (join rel nm))).bind fun _ => walk cap levels (join dir nm) (join rel nm)
            | .file =>
              (encodeHostFile cap (join dir nm)).bind fun f => emitBuilt cap (fileEntry (join rel nm) f)
            | _ => Act.raise .notFound)
        ns

/-- CDIR's requests (R145). -/
def compressDirectory (cap depth : Nat) (ext pin pout : Bytes) : Act Unit :=
  (ask (.stat pin)).bind fun r =>
    match r with
    | .ioFail => Act.raise .ioFailure
    | .dir =>
      if validName (lastSeg pin) then
        (demand (.create (outPath ext pin pout))).bind fun _ =>
          (closingOnError
            ((emitBuilt cap (headerWrite true (lastSeg pin))).bind fun _ => walk cap depth pin [])).bind fun _ =>
              demand .close
      else Act.raise .notFound
    | _ => Act.raise .notFound

/-! ## DDIR (R150 to R152) -/

/-- `mkdirs(x)` (R150). -/
def mkdirs (p : Bytes) : Act Unit := demand (.mkdirs p)

/-- `apply_file(base, q, C, e, pk)` (R151). -/
def applyFile (cap : Nat) (base q : Bytes) (f : Frame) : Act Unit :=
  (Act.lift (decodePayload cap f)).bind fun d =>
    (if parent q = [] then Act.pure () else mkdirs (join base (parent q))).bind fun _ =>
      demand (.writeFile (join base q) d)

/-- The entry loop of DDIR from cursor `p` (R150). Each entry takes at least 5 bytes, so the archive's length plus one is
fuel enough (`applyEntries_fuel`). -/
def applyEntries (cap : Nat) (base a : Bytes) : Nat → Nat → Act Unit
  | 0, _ => Act.pure ()
  | fuel + 1, p =>
    (Act.lift (entryRead a p)).bind fun ep =>
      match ep.1 with
      | .stop => Act.pure ()
      | .dir q =>
        if validPath q then (mkdirs (join base q)).bind fun _ => applyEntries cap base a fuel ep.2
        else Act.raise .malformed
      | .file q f =>
        if validPath q then (applyFile cap base q f).bind fun _ => applyEntries cap base a fuel ep.2
        else Act.raise .malformed

/-- The header of a folder archive, accepted before any write: its root name and the cursor after it (R150;
45_archive_header.md R140). -/
def openFolder (a : Bytes) : Except Err (Bytes × Nat) := do
  let (root, p) ← headerRead a 0 true
  require (validName root) .malformed
  .ok (root, p)

/-- DDIR's requests (R150). -/
def decompressDirectory (cap : Nat) (pin pdst : Bytes) : Act Unit :=
  (readArchive cap .capacityExceeded pin).bind fun a =>
    (Act.lift (openFolder a)).bind fun rp =>
      (mkdirs (join pdst rp.1)).bind fun _ => applyEntries cap (join pdst rp.1) a (a.length + 1) rp.2

/-! ## PREV (R156 to R161) -/

/-- What PREV leaves: NAME if the header was read, the items produced, and the error that ended it, if any (R158, R159). -/
structure Preview where
  root : Option Bytes
  items : List PreviewItem
  error : Option Err
  deriving DecidableEq, Repr

/-- The stack of directory paths (top first) after popping while the top is not an ancestor of `q` (R158, R160). -/
def popTo (q : Bytes) (stack : List Bytes) : List Bytes := stack.dropWhile (fun d => !descendant q d)

/-- The item of an entry with path `q` under the stack left for it (R157). -/
def previewItem (q : Bytes) (stack : List Bytes) : PreviewItem := ⟨stack.length, lastSeg q⟩

/-- The entry loop of PREV from cursor `p`: the items and the error that ended it, if any (R158). The fuel is as for DDIR
(`previewEntries_fuel`). -/
def previewEntries (a : Bytes) : Nat → Nat → List Bytes → List PreviewItem × Option Err
  | 0, _, _ => ([], none)
  | fuel + 1, p, stack =>
    match entrySkip a p with
    | .error e => ([], some e)
    | .ok (.stop, _) => ([], none)
    | .ok (.dir q, p) =>
      let s := popTo q stack
      let (items, e) := previewEntries a fuel p (q :: s)
      (previewItem q s :: items, e)
    | .ok (.file q _, p) =>
      let s := popTo q stack
      let (items, e) := previewEntries a fuel p s
      (previewItem q s :: items, e)

/-- The preview of an archive's bytes (R158). -/
def previewArchive (a : Bytes) : Preview :=
  match headerRead a 0 true with
  | .error e => ⟨none, [], some e⟩
  | .ok (root, p) =>
    let (items, e) := previewEntries a (a.length + 1) p []
    ⟨some root, items, e⟩

/-- PREV's one request and what it leaves (R158). -/
def preview (cap : Nat) (pin : Bytes) (h : HostSide) : Preview × HostSide :=
  match readArchive cap .ioFailure pin h with
  | (.ok a, h') => (previewArchive a, h')
  | (.error e, h') => (⟨none, [], some e⟩, h')

/-! ## The commands -/

/-- The end of an operation command: STATUS and the host's side, no other register (10_state.md R37; 60_exceptions.md
R169: host effects already made are not undone). -/
def State.operate (op : Byte) (act : Act Unit) (s : State) : State :=
  (s.setHost (act s.host).2).finish op
    (match (act s.host).1 with
    | .ok _ => .ok (s.setHost (act s.host).2)
    | .error e => .error e)

/-- CFILE (R142). -/
def execCfile (s : State) : Host.Outcome State Fault Refusal :=
  .next (s.operate (opcode .cfile) (compressFile s.cap s.params.archiveExt s.pin s.pout))

/-- DFILE (R144). -/
def execDfile (s : State) : Host.Outcome State Fault Refusal :=
  .next (s.operate (opcode .dfile) (decompressFile s.cap s.pin s.pdst))

/-- CDIR (R145). -/
def execCdir (s : State) : Host.Outcome State Fault Refusal :=
  .next (s.operate (opcode .cdir)
    (compressDirectory s.cap s.params.walkDepthMax s.params.archiveExt s.pin s.pout))

/-- DDIR (R150). -/
def execDdir (s : State) : Host.Outcome State Fault Refusal :=
  .next (s.operate (opcode .ddir) (decompressDirectory s.cap s.pin s.pdst))

/-- The registers PREV writes on every outcome: PVW, and NAME once the header has been read (R158, R159). -/
def State.withPreview (v : Preview) (s : State) : State :=
  (s.setPvw v.items).setName (v.root.getD s.name)

/-- PREV (R158). -/
def execPrev (s : State) : Host.Outcome State Fault Refusal :=
  let r := preview s.cap s.pin s.host
  let t := (s.setHost r.2).withPreview r.1
  .next (match r.1.error with
    | none => t.succeed (opcode .prev)
    | some e => t.abort (opcode .prev) e)

end Sys2Proof.Machine
end

