-- ==== Sys2Proof/Machine/Dispatch.lean ====
section
/-! DEFINITION. One arm per command: the meaning of each of the 25 commands. -/

namespace Sys2Proof.Machine

def exec (i : Instr) (s : State) : Host.Outcome State Fault Refusal :=
  match i with
  | .freq => Sys2Proof.Machine.execFreq s
  | .build => Sys2Proof.Machine.execBuild s
  | .codes => Sys2Proof.Machine.execCodes s
  | .trie => Sys2Proof.Machine.execTrie s
  | .tser => Sys2Proof.Machine.execTser s
  | .tdes => Sys2Proof.Machine.execTdes s
  | .pack => Sys2Proof.Machine.execPack s
  | .unpack => Sys2Proof.Machine.execUnpack s
  | .fenc => Sys2Proof.Machine.execFenc s
  | .fdec => Sys2Proof.Machine.execFdec s
  | .pwr => Sys2Proof.Machine.execPwr s
  | .prd => Sys2Proof.Machine.execPrd s
  | .pskip => Sys2Proof.Machine.execPskip s
  | .ewrDir => Sys2Proof.Machine.execEwrDir s
  | .ewrFile => Sys2Proof.Machine.execEwrFile s
  | .erd => Sys2Proof.Machine.execErd s
  | .hwrFile => Sys2Proof.Machine.execHwrFile s
  | .hwrFold => Sys2Proof.Machine.execHwrFold s
  | .hrdFile => Sys2Proof.Machine.execHrdFile s
  | .hrdFold => Sys2Proof.Machine.execHrdFold s
  | .cfile => Sys2Proof.Machine.execCfile s
  | .dfile => Sys2Proof.Machine.execDfile s
  | .cdir => Sys2Proof.Machine.execCdir s
  | .ddir => Sys2Proof.Machine.execDdir s
  | .prev => Sys2Proof.Machine.execPrev s

end Sys2Proof.Machine
end

