-- ==== Sys2Proof/Machine/Port.lean ====
section
/-! DEFINITION. The host's transactions on the register file (10_state.md R22, R23; 70_reset_and_hazards.md R182) and what
HCT does next. HCT has no program counter and fetches nothing (R35, R183): what it does next is the host's next transaction. -/

namespace Sys2Proof.Machine

/-- What the next step is. -/
inductive Pending where
  /-- No transaction waits: HCT is idle (R183). -/
  | idle
  /-- HOST_WRITE(0, w): issue the command word `w` (R23). -/
  | command (w : Word)
  /-- A transaction that runs no command. -/
  | access (t : HostTx)
  deriving DecidableEq, Repr

/-- The host's next transaction. -/
def State.pending (s : State) : Pending :=
  match s.tx with
  | [] => .idle
  | .write 0 (.word w) :: _ => .command w
  | t :: _ => .access t

/-- The state with the next transaction taken off the queue. -/
def State.taken (s : State) : State := { s with tx := s.tx.tail }

/-- An illegal command word: STATUS gets ERR = 8 and LASTOP = w[7:0], nothing else changes (60_exceptions.md R168). -/
def State.illegal (w : Word) (s : State) : State := s.abort (opField w) .illegalCommand

/-- A transaction that runs no command (R22, R182). A HOST_WRITE of a value outside the register's type or invariant is
refused (D39). -/
def State.access (t : HostTx) (s : State) : Host.Outcome State Fault Refusal :=
  match t with
  | .write n v =>
    match s.hostWrite n v with
    | some s' => .next s'
    | none => .refused (.hostWrite n)
  | .read n => .next { s with readout := some (s.hostRead n) }
  | .reset => .next (State.resetWith s.params s.host s.tx s.readout)

/-- The state in which the host's next transaction issues the command word `w`. -/
def State.withCommand (w : Word) (s : State) : State := { s with tx := .write 0 (.word w) :: s.tx }

end Sys2Proof.Machine
end

