-- ==== Sys2Proof/Machine/Step.lean ====
section
/-! DEFINITION. One step: the host's next transaction, run to its end (10_state.md R22, R23). -/

namespace Sys2Proof.Machine

/-- Idle with no transaction waiting; an issued word is decoded and its command run, or IllegalCommand taken (R23,
30_encoding.md R64); any other transaction is performed. -/
def step (s : State) : Host.Outcome State Fault Refusal :=
  match s.pending with
  | .idle => .next s
  | .access t => s.taken.access t
  | .command w =>
    match decode w with
    | some i => exec i s.taken
    | none => .next (s.taken.illegal w)

/-- `s` with the instruction's word as the command word the host issues next. A program comes to run from State.reset by
the host's transactions, which are inputs (log 4). -/
def State.withFetchWord (s : State) (nbits w : Nat) : State := s.withCommand (tableWord nbits w)

end Sys2Proof.Machine
end

