-- ==== Sys2Proof/Safety.lean ====
section
/-! DEFINITION. What a state of HCT may look like between transactions: the register invariants of 10_state.md and the
host's side at rest (R36, R38). HCT has no fault, so a safe run is one whose states keep this and that is never refused. -/

namespace Sys2Proof.Machine

/-- The number of levels below a node. -/
def Tree.height : Tree → Nat
  | .absent => 0
  | .leaf _ => 0
  | .inner l r => 1 + max l.height r.height

/-- Every `Inner` has at least one child (10_state.md R30). -/
def Tree.noHollow : Tree → Bool
  | .absent => true
  | .leaf _ => true
  | .inner l r => !(l == .absent && r == .absent) && l.noHollow && r.noHollow

/-- The root is a leaf. -/
def Tree.isLeaf : Tree → Bool
  | .leaf _ => true
  | _ => false

/-- TREE's shape (R30): none, or a root that is no leaf, no `Inner` without a child, every leaf at depth 1 to 255. -/
abbrev TreeWf (t : Tree) : Prop := t.isLeaf = false ∧ t.noHollow = true ∧ t.height ≤ Config.maxCodeBits

/-- The buffers are within BUF_CAP and NAME within MAX_STR (R21, R32, R33). -/
abbrev BuffersFit (s : State) : Prop :=
  s.din.length ≤ s.cap ∧ s.dout.length ≤ s.cap ∧ s.pk.length ≤ s.cap ∧ s.name.length ≤ Config.maxStr

/-- STATUS's reserved fields read 0 and ERR is a code of 60_exceptions.md R166; KIND is never 3 (R24, R28). -/
abbrev StatusFits (s : State) : Prop := s.reservedStatus = 0 ∧ s.err.toNat ≤ 8 ∧ s.kind ≠ 3

/-- The host's paths are in HCT's form (20_memory.md R59 duty 3). -/
abbrev PathsFit (s : State) : Prop := inputForm s.pin = true ∧ hostForm s.pout = true ∧ hostForm s.pdst = true

/-- The invariant of HCT between transactions. -/
structure State.Inv (s : State) : Prop where
  buffers : BuffersFit s
  pos : s.pos < 2 ^ 64
  ft : FtWf s.ft
  tree : TreeWf s.tree
  ct : CtWf s.ct
  status : StatusFits s
  paths : PathsFit s
  files : FsWf s.host.files
  archive : s.host.archive = none

end Sys2Proof.Machine
end

