-- ==== Sys2Proof/Certificates/Slice0/Obligations.lean ====
section
/-! DEFINITION. The statements for the provers, and the reference forms they are stated with: the byte layouts of
30_encoding.md part B, the leaves of a tree, meaningful bits, and the requests a directory tree gives rise to. -/

namespace Sys2Proof.Certificates

open Sys2Proof Sys2Proof.Machine

/-! ## Byte layouts, written from 30_encoding.md R72 to R81 apart from the model's writers -/

/-- A 2-byte big-endian field (20_memory.md R43). -/
def u16 (v : Nat) : Bytes := [BitVec.ofNat 8 (v / 2 ^ 8), BitVec.ofNat 8 v]

/-- A 4-byte big-endian field (20_memory.md R43). -/
def u32 (v : Nat) : Bytes :=
  [BitVec.ofNat 8 (v / 2 ^ 24), BitVec.ofNat 8 (v / 2 ^ 16), BitVec.ofNat 8 (v / 2 ^ 8), BitVec.ofNat 8 v]

/-- A string field (R73). -/
def strBytes (b : Bytes) : Bytes := u16 b.length ++ b

/-- The units of a code's bits (R78). -/
def unitBytes (c : Bits) : Bytes := c.flatMap (fun x => [0x00#8, if x then 0x31#8 else 0x30#8])

/-- One entry of a serialized code table (R77). -/
def codeEntryBytes (e : Byte × Bits) : Bytes := [e.1] ++ u32 e.2.length ++ unitBytes e.2

/-- A serialized code table with its entries in the order given (R77). -/
def tableBytes (l : List (Byte × Bits)) : Bytes := u32 l.length ++ l.flatMap codeEntryBytes

/-- A payload frame with its table entries in the order given (R75). -/
def frameBytesWith (l : List (Byte × Bits)) (e : Byte) (pk : Bytes) : Bytes :=
  u32 pk.length ++ [e] ++ tableBytes l ++ pk

/-- A payload frame (R75). -/
def frameBytes (f : Frame) : Bytes := frameBytesWith f.table f.eff f.packed

/-- A directory entry (R81). -/
def dirBytes (q : Bytes) : Bytes := [0x00#8, 0x01#8, 0x46#8] ++ strBytes q

/-- A file entry (R81). -/
def fileBytes (q : Bytes) (f : Frame) : Bytes := [0x00#8, 0x02#8, 0x46#8, 0x49#8] ++ strBytes q ++ frameBytes f

/-- An archive's signature and name (R71, R72); `fold` is K = 1. -/
def headerBytes (fold : Bool) (name : Bytes) : Bytes :=
  [0x48#8, 0x46#8] ++ (if fold then [0x4F#8, 0x4C#8, 0x44#8] else [0x49#8, 0x4C#8, 0x45#8]) ++ strBytes name

/-- A frame whose fields are arbitrary bytes of the lengths its length fields give: an entry is its byteValue and its
unread unit bytes (43_filecodec.md R120, R124). -/
structure RawFrame where
  eff : Byte
  entries : List (Byte × Bytes)
  packed : Bytes
  deriving DecidableEq, Repr

/-- The lengths fit their fields: whole units, 4-byte counts. -/
abbrev RawFrame.Fits (f : RawFrame) : Prop :=
  f.packed.length < 2 ^ 32 ∧ f.entries.length < 2 ^ 32 ∧
    ∀ e ∈ f.entries, e.2.length % 2 = 0 ∧ e.2.length / 2 < 2 ^ 32

/-- The bytes of such a frame (R75). -/
def rawFrameBytes (f : RawFrame) : Bytes :=
  u32 f.packed.length ++ [f.eff] ++ u32 f.entries.length ++
    f.entries.flatMap (fun e => [e.1] ++ u32 (e.2.length / 2) ++ e.2) ++ f.packed

/-! ## Trees, codes and meaningful bits -/

/-- The leaves of a tree with their paths from the root, left to right, 0 for left (41_tree_codetable.md R91). -/
def leafPaths : Tree → Bits → List (Byte × Bits)
  | .absent, _ => []
  | .leaf b, p => [(b, p)]
  | .inner l r, p => leafPaths l (p ++ [false]) ++ leafPaths r (p ++ [true])

/-- No code equals, or is a prefix of, another (41_tree_codetable.md R93). -/
abbrev PrefixFree (c : List (Byte × Bits)) : Prop := c.Pairwise (fun a b => ¬ a.2 <+: b.2 ∧ ¬ b.2 <+: a.2)

/-- Every byte of `d` has a code. -/
abbrev Covers (c : CodeTable) (d : Bytes) : Prop := ∀ b ∈ d, (codeOf c b).isSome = true

/-- The code bits of the bytes of `d`, in order (42_bitpack.md R105, R111). -/
def bitsOf (c : CodeTable) (d : Bytes) : Bits := d.flatMap (fun b => (codeOf c b).getD [])

/-- The meaningful bits of `pk` with effective-bit count `e` are `bits` (20_memory.md R53). -/
abbrev PackedAs (pk : Bytes) (e : Byte) (bits : Bits) : Prop :=
  validEff e = true ∧ nbits pk.length e.toNat = bits.length ∧ (pk.flatMap byteBits).take bits.length = bits

/-- Every bit of `pk` after the first `n` is 0. -/
abbrev ZeroAfter (pk : Bytes) (n : Nat) : Prop := ∀ x ∈ (pk.flatMap byteBits).drop n, x = false

/-- The fields of a frame HCT may write (43_filecodec.md R122). -/
abbrev FrameWf (f : Frame) : Prop :=
  CtWf f.table ∧ validEff f.eff = true ∧ f.packed.length ≤ Config.maxField

/-- A payload frame that decodes to `d`. -/
abbrev Decodes (f : Frame) (d : Bytes) : Prop :=
  FrameWf f ∧ PrefixFree f.table ∧ Covers f.table d ∧ PackedAs f.packed f.eff (bitsOf f.table d)

/-- The number of byte values present (41_tree_codetable.md R87: `|P|`). -/
def presentCount (f : FreqTable) : Nat :=
  ((List.range 256).filter (fun n => decide (0 < countOf f (BitVec.ofNat 8 n)))).length

/-- The length of a payload frame with codes `c` and `n` code bits (30_encoding.md R75, R77). -/
def frameLength (c : CodeTable) (n : Nat) : Nat := 9 + (c.map (fun e => 5 + 2 * e.2.length)).sum + (n + 7) / 8

/-- Packing `d` with codes `c` stays within BUF_CAP and MAX_FIELD (42_bitpack.md R106). -/
abbrev PackFits (cap : Nat) (c : CodeTable) (d : Bytes) : Prop :=
  (bitsOf c d).length ≤ 8 * min cap Config.maxField

/-! ## R87 read literally: an unordered collection and a search for the least triple -/

/-- The least triple of a collection, by frequency and then sequence number. -/
def leastOf (x : Ranked) : List Ranked → Ranked
  | [] => x
  | y :: ys => leastOf (if y.before x then y else x) ys

/-- `Q.remove_min()` on an unordered collection. -/
def removeMin : List Ranked → Option (Ranked × List Ranked)
  | [] => none
  | x :: xs => some (leastOf x xs, (x :: xs).erase (leastOf x xs))

/-- The merging loop on an unordered collection. -/
def mergeByRemoval : Nat → Nat → List Ranked → Tree
  | 0, _, _ => .absent
  | fuel + 1, seq, q =>
    match removeMin q with
    | none => .absent
    | some (x, q1) =>
      match removeMin q1 with
      | none => x.node
      | some (y, q2) => mergeByRemoval fuel (seq + 1) (⟨x.freq + y.freq, seq, .inner x.node y.node⟩ :: q2)

/-- The present bytes in ascending order, from the counts alone. -/
def presentBytes (f : FreqTable) : List Byte :=
  ((List.range 256).map (BitVec.ofNat 8)).filter (fun b => decide (0 < countOf f b))

/-- `build_tree(F)` as R87 writes it. -/
def buildByRemoval (f : FreqTable) : Tree :=
  match presentBytes f with
  | [] => .absent
  | [b] => .inner (.leaf b) .absent
  | p => mergeByRemoval p.length p.length (p.zipIdx.map (fun e => ⟨countOf f e.1, e.2, .leaf e.1⟩))

/-! ## The host in a run -/

/-- A host that keeps duty 4 and serves its next `n` requests: no IOFAIL, and no MISSING for a file it has (log 2). -/
abbrev Quiet (n : Nat) (h : HostSide) : Prop :=
  h.mayChange = false ∧ n ≤ h.draws.length ∧ ∀ d ∈ h.draws.take n, d.fail = false ∧ d.view ≠ .missing

/-- The requests on the trace. -/
def requests (s : State) : List HostReq := s.host.trace.map Prod.fst

/-- The paths whose node a request of DDIR may change (20_memory.md R57). -/
def touched : HostReq → List Bytes
  | .mkdirs p => pathChain p
  | .writeFile p _ => [p]
  | _ => []

/-- All the values, if every one is there. -/
def allSome {α : Type} : List (Option α) → Option (List α)
  | [] => some []
  | none :: _ => none
  | some x :: xs => (allSome xs).map (fun ys => x :: ys)

/-- The entries of the directory `dir` whose archive path is `rel`, in walk order: path, and contents for a file; none
where an entry is a link or special file or the nesting is deeper than the levels left (46_operations.md R146, R147, R149). -/
def treeEntries : Nat → FileSystem → Bytes → Bytes → Option (List (Bytes × Option Bytes))
  | 0, _, _, _ => none
  | n + 1, fs, dir, rel =>
    (allSome ((sortBytes (children fs dir)).map (fun nm =>
      match fsLookup fs (join dir nm) with
      | none => none
      | some (.special _) => none
      | some (.file d) => some [(join rel nm, some d)]
      | some .dir =>
        (treeEntries n fs (join dir nm) (join rel nm)).map (fun es => (join rel nm, none) :: es)))).map List.flatten

/-- The requests of a walk over the same tree, with the frame each file's contents become (46_operations.md R146). -/
def treeRequests (frame : Bytes → Frame) : Nat → FileSystem → Bytes → Bytes → Option (List HostReq)
  | 0, _, _, _ => none
  | n + 1, fs, dir, rel =>
    (allSome ((sortBytes (children fs dir)).map (fun nm =>
      match fsLookup fs (join dir nm) with
      | none => none
      | some (.special _) => none
      | some (.file d) =>
        some [.stat (join dir nm), .read (join dir nm), .read (join dir nm), .append (fileBytes (join rel nm) (frame d))]
      | some .dir =>
        (treeRequests frame n fs (join dir nm) (join rel nm)).map (fun qs =>
          [.stat (join dir nm), .append (dirBytes (join rel nm))] ++ qs)))).map (fun ls => .list dir :: ls.flatten)

/-- The requests of a walk up to the first directory that is too deep, and whether there is none: its entry is emitted and
it is not listed (46_operations.md R146, R149). -/
def walkRequests (frame : Bytes → Frame) : Nat → FileSystem → Bytes → Bytes → List HostReq × Bool
  | 0, _, _, _ => ([], false)
  | n + 1, fs, dir, rel =>
    let r := (sortBytes (children fs dir)).foldl
      (fun acc nm =>
        if acc.2 then
          match fsLookup fs (join dir nm) with
          | some (.file d) =>
            (acc.1 ++ [.stat (join dir nm), .read (join dir nm), .read (join dir nm),
              .append (fileBytes (join rel nm) (frame d))], true)
          | some .dir =>
            let sub := walkRequests frame n fs (join dir nm) (join rel nm)
            (acc.1 ++ [.stat (join dir nm), .append (dirBytes (join rel nm))] ++ sub.1, sub.2)
          | _ => acc
        else acc)
      ([], true)
    (.list dir :: r.1, r.2)

/-- The bytes of one entry of a walk. -/
def walkEntryBytes (frame : Bytes → Frame) (e : Bytes × Option Bytes) : Bytes :=
  match e.2 with
  | none => dirBytes e.1
  | some d => fileBytes e.1 (frame d)

/-- The bytes of a walk's entries. -/
def entriesBytes (frame : Bytes → Frame) (es : List (Bytes × Option Bytes)) : Bytes := es.flatMap (walkEntryBytes frame)

/-- The frame of one file's contents: built from the file's own counts, its packed bytes within BUF_CAP (R143). -/
abbrev FrameOf (cap : Nat) (frame : Bytes → Frame) (d : Bytes) : Prop :=
  codesOf (buildTree (freqOf d)) = .ok (frame d).table ∧ Decodes (frame d) d ∧
    ZeroAfter (frame d).packed (bitsOf (frame d).table d).length ∧ (frame d).packed.length ≤ cap ∧
    (d = [] → (frame d).eff = 8)

/-- The requests DDIR makes for one entry under `base` (46_operations.md R150, R151). -/
def entryRequests (base : Bytes) (e : Bytes × Option Bytes) : List HostReq :=
  match e.2 with
  | none => [.mkdirs (join base e.1)]
  | some d =>
    (if parent e.1 = [] then [] else [.mkdirs (join base (parent e.1))]) ++ [.writeFile (join base e.1) d]

/-- The listing PREV makes of entries given as (is a directory, path), under a stack of directory paths
(46_operations.md R157, R158, R160). -/
def listing : List (Bool × Bytes) → List Bytes → List PreviewItem
  | [], _ => []
  | (isD, q) :: es, stack =>
    let left := stack.dropWhile (fun d => !descendant q d)
    ⟨left.length, lastSeg q⟩ :: listing es (if isD then q :: left else left)

/-- An entry of a folder archive with an unread payload. -/
def rawEntryBytes (e : Bytes × Option RawFrame) : Bytes :=
  match e.2 with
  | none => dirBytes e.1
  | some f => [0x00#8, 0x02#8, 0x46#8, 0x49#8] ++ strBytes e.1 ++ rawFrameBytes f

/-- Reading entries one after another from cursor `p` gives the list and then the end (44_container.md R134). -/
def ReadsAs (a : Bytes) : List (Entry Frame) → Nat → Prop
  | [], p => entryRead a p = .ok (.stop, p)
  | e :: es, p => ∃ p', entryRead a p = .ok (e, p') ∧ ReadsAs a es p'

/-- An entry EWR may write, and its bytes. -/
def EntryFits : Entry Frame → Prop
  | .stop => False
  | .dir q => q.length ≤ Config.maxStr
  | .file q f => q.length ≤ Config.maxStr ∧ FrameWf f

/-- The bytes of an entry (30_encoding.md R81). -/
def entryBytes : Entry Frame → Bytes
  | .stop => []
  | .dir q => dirBytes q
  | .file q f => fileBytes q f

/-- The primitive commands: those that work on registers only (00_scope.md R15). -/
def primitive : Instr → Bool
  | .cfile => false
  | .dfile => false
  | .cdir => false
  | .ddir => false
  | .prev => false
  | _ => true

/-- The error with which DDIR fails at the entry at cursor `p` before any request of that entry, if it does
(46_operations.md R150, R151; 60_exceptions.md R172, log 10). -/
def entryError (cap : Nat) (a : Bytes) (p : Nat) : Option Err :=
  match entryRead a p with
  | .error e => some e
  | .ok (.stop, _) => none
  | .ok (.dir q, _) => if validPath q then none else some .malformed
  | .ok (.file q f, _) =>
    if validPath q then
      match decodePayload cap f with
      | .error e => some e
      | .ok _ => none
    else some .malformed

/-- A path a decompression may ask to write: its base, or a valid relative path under it (44_container.md R131). -/
def Under (base p : Bytes) : Prop := p = base ∨ ∃ q, validPath q = true ∧ p = join base q

/-- The path a write request of a decompression names. -/
def writePath : HostReq → Option Bytes
  | .mkdirs p => some p
  | .writeFile p _ => some p
  | _ => none

/-- A value within the type and invariant of a register the host may write (10_state.md R21, R29, R31, R33), or for a path
one in HCT's form (20_memory.md R59 duty 3). -/
def FitsRegister (cap n : Nat) (v : RegValue) : Prop :=
  ((n = 2 ∨ n = 3 ∨ n = 8) ∧ ∃ b, v = .bytes b ∧ b.length ≤ cap) ∨
  (n = 4 ∧ ∃ p, v = .nat p ∧ p < 2 ^ 64) ∨
  (n = 5 ∧ ∃ f, v = .freqs f ∧ FtWf f) ∨
  (n = 7 ∧ ∃ c, v = .table c ∧ CtWf c) ∨
  (n = 9 ∧ ∃ e, v = .byte e) ∨
  (n = 10 ∧ ∃ b, v = .bytes b ∧ b.length ≤ 65535) ∨
  (n = 12 ∧ ∃ b, v = .bytes b ∧ inputForm b = true) ∨
  ((n = 13 ∨ n = 14) ∧ ∃ b, v = .bytes b ∧ hostForm b = true)

/-- The errors a legal word of each command may end with (60_exceptions.md R172). -/
def mayRaise : Instr → List Err
  | .freq => []
  | .build => []
  | .codes => [.malformed]
  | .trie => [.malformed]
  | .tser => [.capacityExceeded]
  | .tdes => [.truncatedStream, .malformed]
  | .pack => [.unknownSymbol, .capacityExceeded]
  | .unpack => [.malformed, .capacityExceeded]
  | .fenc => [.capacityExceeded]
  | .fdec => [.malformed, .capacityExceeded]
  | .pwr => [.malformed, .capacityExceeded]
  | .prd => [.truncatedStream, .malformed]
  | .pskip => [.truncatedStream]
  | .ewrDir => [.capacityExceeded]
  | .ewrFile => [.malformed, .capacityExceeded]
  | .erd => [.truncatedStream, .malformed]
  | .hwrFile => [.capacityExceeded]
  | .hwrFold => [.capacityExceeded]
  | .hrdFile => [.unrecognizedFormat, .truncatedStream]
  | .hrdFold => [.unrecognizedFormat, .truncatedStream]
  | .cfile => [.notFound, .unknownSymbol, .ioFailure, .capacityExceeded]
  | .dfile => [.notFound, .unrecognizedFormat, .truncatedStream, .ioFailure, .malformed, .capacityExceeded]
  | .cdir => [.notFound, .unknownSymbol, .ioFailure, .capacityExceeded]
  | .ddir => [.notFound, .unrecognizedFormat, .truncatedStream, .ioFailure, .malformed, .capacityExceeded]
  | .prev => [.notFound, .unrecognizedFormat, .truncatedStream, .ioFailure, .malformed]

/-- The fields a register file write may not touch besides register `n` (10_state.md R34). -/
def sameBut (n : Nat) (s t : State) : Prop :=
  ∀ m, m ≠ n → t.hostRead m = s.hostRead m

end Sys2Proof.Certificates

open Sys2Proof Sys2Proof.Machine Sys2Proof.Certificates

/-! ## Encoding -/

/-- R64: a word decodes exactly when its opcode is assigned, its reserved bits are 0, and K is 0 unless the opcode uses it. -/
def Obligations.DecodeAcceptsExactlyLegalWords : Prop :=
  ∀ w : Word, (decode w).isSome = legalWord w

/-- R66: every command is decoded from its own word, and from no other word. -/
def Obligations.EveryCommandHasExactlyOneWord : Prop :=
  ∀ (i : Instr) (w : Word), decode w = some i ↔ w = encode i

/-- R65, R66: words of each family as the spec writes them. -/
def Obligations.SpecWordsDecode : Prop :=
  decode 0x00000001#32 = some .freq ∧ decode 0x00000007#32 = some .pack ∧ decode 0x0000000B#32 = some .pwr ∧
    decode 0x0000010E#32 = some .ewrFile ∧ decode 0x0000000E#32 = some .ewrDir ∧
    decode 0x00000110#32 = some .hwrFold ∧ decode 0x00000011#32 = some .hrdFile ∧ decode 0x0000001C#32 = some .prev

/-- R168: issuing an illegal word changes no register except STATUS, which gets ERR = 8 and LASTOP = w[7:0], and makes no
request. -/
def Obligations.IllegalWordWritesOnlyStatus : Prop :=
  ∀ (w : Word) (s : State), legalWord w = false → s.pending = .command w →
    ∃ t, step s = .next t ∧ t = { s.taken with status := t.status } ∧ t.err = 8 ∧ t.lastOp = w.extractLsb' 0 8 ∧
      t.reservedStatus = 0

/-- R23: when the word the host issues decodes to a command, the step is that command's, on the state with the transaction
taken off the queue. -/
def Obligations.StepRunsIssuedCommand : Prop :=
  ∀ (w : Word) (i : Instr) (s : State), decode w = some i →
    s.pending = .command w → step s = exec i { s with tx := s.tx.tail }

/-! ## Tree and code table (41_tree_codetable.md) -/

/-- R86: FREQ sets FT(b) to the number of times b occurs in DIN, for every b, and nothing else but STATUS. -/
def Obligations.FreqCountsBytes : Prop :=
  decode 0x00000001#32 = some .freq ∧
  ∀ s : State, ∃ f : FreqTable, exec .freq s = .next ((s.setFt f).succeed 0x01#8) ∧
    (∀ b, countOf f b = s.din.count b) ∧ Ascending f ∧ ∀ e ∈ f, 0 < e.2

/-- R90 with R89: BUILD sets TREE to build_tree(FT): none for no symbol, Inner(Leaf(b), none) for one. -/
def Obligations.BuildStoresTree : Prop :=
  decode 0x00000002#32 = some .build ∧
  ∀ s : State, exec .build s = .next ((s.setTree (buildTree s.ft)).succeed 0x02#8) ∧
    (FtWf s.ft →
      ((∀ b, countOf s.ft b = 0) → buildTree s.ft = .absent) ∧
      (∀ b, (∀ c, 0 < countOf s.ft c ↔ c = b) → buildTree s.ft = .inner (.leaf b) .absent))

/-- R87, R88: the tree BUILD makes from its sorted queue is the tree of the pseudocode on an unordered collection with a
search for the least (frequency, seq). -/
def Obligations.BuildFollowsMinimumSelection : Prop :=
  ∀ f : FreqTable, FtWf f → buildTree f = buildByRemoval f

/-- R91, R92: CODES maps each symbol to its leaf's path (the last leaf of it, where a symbol has several) and nothing else;
a root that is a leaf is Malformed. -/
def Obligations.CodesAreLeafPaths : Prop :=
  decode 0x00000003#32 = some .codes ∧
  ∀ s : State,
    (s.tree.isLeaf = false → ∃ c : CodeTable, exec .codes s = .next ((s.setCt c).succeed 0x03#8) ∧ Ascending c ∧
      ∀ b, codeOf c b = (((leafPaths s.tree []).filter (fun e => e.1 == b)).getLast?).map Prod.snd) ∧
    (s.tree.isLeaf = true → exec .codes s = .next (s.abort 0x03#8 .malformed))

/-- R93, R94: TRIE succeeds exactly on prefix-free tables, and then TREE's leaves are the table's entries, each at its
code; otherwise Malformed. -/
def Obligations.TrieSucceedsExactlyOnPrefixFree : Prop :=
  decode 0x00000004#32 = some .trie ∧
  ∀ s : State, CtWf s.ct →
    (PrefixFree s.ct → ∃ t : Tree, exec .trie s = .next ((s.setTree t).succeed 0x04#8) ∧
      (leafPaths t []).Perm s.ct ∧ (s.ct = [] → t = .absent) ∧ TreeWf t) ∧
    (¬ PrefixFree s.ct → exec .trie s = .next (s.abort 0x04#8 .malformed))

/-- R95, R96: TSER appends the serialized table, or raises CapacityExceeded. -/
def Obligations.TserAppendsTable : Prop :=
  decode 0x00000005#32 = some .tser ∧
  ∀ s : State, CtWf s.ct →
    (tableBytes s.ct).length = 4 + (s.ct.map (fun e => 5 + 2 * e.2.length)).sum ∧
    (s.dout.length + (tableBytes s.ct).length ≤ s.cap →
      exec .tser s = .next ((s.setDout (s.dout ++ tableBytes s.ct)).succeed 0x05#8)) ∧
    (s.cap < s.dout.length + (tableBytes s.ct).length →
      exec .tser s = .next (s.abort 0x05#8 .capacityExceeded))

/-- R97, R99, R83: TDES reads the table at POS, its entries in any order, and sets POS past it; it accepts nothing else, and
each check raises its error and leaves CT and POS: an entryCount above 256 before any length check, an entryCount too large
for the bytes left, a table cut short, and, after any entries that are good, a codeBitLength out of range, units that run
past the end, a unit of another value, and a byteValue met before. -/
def Obligations.TdesReadsTable : Prop :=
  (∀ (s : State) (c : CodeTable) (l : List (Byte × Bits)) (pre r : Bytes), CtWf c → l.Perm c →
    s.din = pre ++ tableBytes l ++ r → s.pos = pre.length →
    exec .tdes s = .next (((s.setCt c).setPos (pre.length + (tableBytes l).length)).succeed 0x06#8)) ∧
  (∀ s : State,
    (∃ (c : CodeTable) (l : List (Byte × Bits)) (pre r : Bytes), CtWf c ∧ l.Perm c ∧ s.din = pre ++ tableBytes l ++ r ∧
      s.pos = pre.length) ∨
    exec .tdes s = .next (s.abort 0x06#8 .truncatedStream) ∨ exec .tdes s = .next (s.abort 0x06#8 .malformed)) ∧
  (∀ s : State, s.din.length < s.pos + 4 → exec .tdes s = .next (s.abort 0x06#8 .truncatedStream)) ∧
  (∀ (s : State) (n : Nat) (pre r : Bytes), s.din = pre ++ u32 n ++ r → s.pos = pre.length → n < 2 ^ 32 →
    (256 < n → exec .tdes s = .next (s.abort 0x06#8 .malformed)) ∧
    (n ≤ 256 → r.length < 5 * n → exec .tdes s = .next (s.abort 0x06#8 .truncatedStream))) ∧
  (∀ (s : State) (c : CodeTable) (l : List (Byte × Bits)) (pre : Bytes) (k : Nat), CtWf c → l.Perm c →
    k < (tableBytes l).length → s.din = pre ++ (tableBytes l).take k → s.pos = pre.length →
    exec .tdes s = .next (s.abort 0x06#8 .truncatedStream)) ∧
  (∀ (s : State) (c : CodeTable) (l : List (Byte × Bits)) (n : Nat) (pre x : Bytes), CtWf c → l.Perm c → l.length < n →
    n ≤ 256 → s.din = pre ++ u32 n ++ l.flatMap codeEntryBytes ++ x → s.pos = pre.length →
    5 * n ≤ (l.flatMap codeEntryBytes ++ x).length →
    (x.length < 5 → exec .tdes s = .next (s.abort 0x06#8 .truncatedStream)) ∧
    (∀ (b : Byte) (len : Nat) (r : Bytes), x = [b] ++ u32 len ++ r → len < 2 ^ 32 →
      (len = 0 ∨ 255 < len → exec .tdes s = .next (s.abort 0x06#8 .malformed)) ∧
      (1 ≤ len → len ≤ 255 → r.length < 2 * len → exec .tdes s = .next (s.abort 0x06#8 .truncatedStream)) ∧
      (∀ (bits : Bits) (u : Nat) (r' : Bytes), 1 ≤ len → len ≤ 255 → 2 * len ≤ r.length → bits.length < len →
        u < 2 ^ 16 → u ≠ 0x30 → u ≠ 0x31 → r = unitBytes bits ++ u16 u ++ r' →
        exec .tdes s = .next (s.abort 0x06#8 .malformed)) ∧
      (∀ (bits : Bits) (r' : Bytes), 1 ≤ len → len ≤ 255 → bits.length = len → r = unitBytes bits ++ r' →
        (codeOf c b).isSome = true → exec .tdes s = .next (s.abort 0x06#8 .malformed))))

/-- The property R103, which the spec marks as derived from R95 and R97. Tdes undoes tser whatever follows, accepts
the entries in any order, and accepts nothing else. -/
def Obligations.TableSerializationRoundTrip : Prop :=
  (∀ c : CodeTable, CtWf c → tser c = .ok (tableBytes c) ∧
    ∀ (l : List (Byte × Bits)) (r : Bytes), l.Perm c → tdes (tableBytes l ++ r) 0 = .ok (c, (tableBytes l).length)) ∧
  (∀ (s : Bytes) (p p' : Nat) (c : CodeTable), tdes s p = .ok (c, p') →
    CtWf c ∧ ∃ l : List (Byte × Bits), l.Perm c ∧ (s.drop p).take (p' - p) = tableBytes l)

/-- The property R100, which the spec marks as derived from R87, R89 and R91. The codes of a built tree are
prefix-free, cover exactly the bytes present, and are its leaves' paths. -/
def Obligations.BuiltCodesCoverPresentBytes : Prop :=
  ∀ f : FreqTable, FtWf f → ∃ c : CodeTable, codesOf (buildTree f) = .ok c ∧ PrefixFree c ∧
    (∀ b, (codeOf c b).isSome = true ↔ 0 < countOf f b) ∧ (leafPaths (buildTree f) []).Perm c

/-- The property R101, which the spec marks as derived from R87, R91 and R93. The trie of a built tree's codes is
that tree. -/
def Obligations.TrieRebuildsBuiltTree : Prop :=
  ∀ f : FreqTable, FtWf f → ∃ c : CodeTable, codesOf (buildTree f) = .ok c ∧ toTrie c = .ok (buildTree f)

/-- The property R102, which the spec marks as derived from R87 and R89. Code lengths of a built tree, and the Kraft
sum 1 when two or more symbols are present. -/
def Obligations.BuiltCodeLengths : Prop :=
  ∀ (f : FreqTable) (c : CodeTable), FtWf f → codesOf (buildTree f) = .ok c →
    (∀ e ∈ c, e.2.length ≤ 255) ∧
    (presentCount f = 1 → ∀ e ∈ c, e.2.length = 1) ∧
    (2 ≤ presentCount f →
      (∀ e ∈ c, 1 ≤ e.2.length ∧ e.2.length ≤ presentCount f - 1) ∧
      (c.map (fun e => (1 / 2 : ℚ) ^ e.2.length)).sum = 1)

/-! ## Bit packing (42_bitpack.md) -/

/-- R105, R106: PACK writes the code bits of DIN to PK with zero padding and their count to EFF; UnknownSymbol where a byte
has no code, CapacityExceeded where the packed bytes pass MAX_FIELD or BUF_CAP. -/
def Obligations.PackWritesCodeBits : Prop :=
  decode 0x00000007#32 = some .pack ∧
  ∀ s : State,
    (Covers s.ct s.din → PackFits s.cap s.ct s.din →
      ∃ (o : Bytes) (e : Byte), exec .pack s = .next (((s.setPk o).setEff e).succeed 0x07#8) ∧
        PackedAs o e (bitsOf s.ct s.din) ∧ ZeroAfter o (bitsOf s.ct s.din).length ∧
        o.length = ((bitsOf s.ct s.din).length + 7) / 8 ∧ ((bitsOf s.ct s.din).length % 8 = 0 → e = 8#8)) ∧
    (Covers s.ct s.din → ¬ PackFits s.cap s.ct s.din → exec .pack s = .next (s.abort 0x07#8 .capacityExceeded)) ∧
    (¬ Covers s.ct s.din → exec .pack s = .next (s.abort 0x07#8 .unknownSymbol))

/-- The property R109, which the spec marks as derived from R105. EFF is 1 to 8, the low 8 - EFF bits of the last
byte are 0, and nbits is the number of code bits. -/
def Obligations.PackPaddingIsZero : Prop :=
  ∀ (d : Bytes) (c : CodeTable) (o : Bytes) (e : Byte), pack d c = .ok (o, e) →
    (1 ≤ e.toNat ∧ e.toNat ≤ 8) ∧
    (∀ x, o.getLast? = some x → ∀ j, j < 8 - e.toNat → x.getLsbD j = false) ∧
    nbits o.length e.toNat = (d.map (fun b => ((codeOf c b).getD []).length)).sum

/-- R107, R108: UNPACK appends the symbols of the leaf paths that make up the meaningful bits; where they are no sequence of
leaf paths, or EFF is not 1 to 8, it is Malformed; where DOUT would pass BUF_CAP, CapacityExceeded. -/
def Obligations.UnpackDecodesLeafPaths : Prop :=
  decode 0x00000008#32 = some .unpack ∧
  ∀ s : State, s.tree.isLeaf = false →
    (∀ ps : List (Byte × Bits), (∀ e ∈ ps, e ∈ leafPaths s.tree []) → PackedAs s.pk s.eff (ps.flatMap Prod.snd) →
      (s.dout.length + ps.length ≤ s.cap →
        exec .unpack s = .next ((s.setDout (s.dout ++ ps.map Prod.fst)).succeed 0x08#8)) ∧
      (s.cap < s.dout.length + ps.length → exec .unpack s = .next (s.abort 0x08#8 .capacityExceeded))) ∧
    ((¬ ∃ ps : List (Byte × Bits), (∀ e ∈ ps, e ∈ leafPaths s.tree []) ∧ PackedAs s.pk s.eff (ps.flatMap Prod.snd)) →
      exec .unpack s = .next (s.abort 0x08#8 .malformed))

/-- The property R110, which the spec marks as derived from R105, R107 and R100. Unpacking what was packed with the
codes of the input's own tree gives the input. -/
def Obligations.PackThenUnpack : Prop :=
  ∀ (d : Bytes) (c : CodeTable) (t : Tree) (o : Bytes) (e : Byte),
    codesOf (buildTree (freqOf d)) = .ok c → toTrie c = .ok t → pack d c = .ok (o, e) → unpack o e t = .ok d

/-! ## File codec (43_filecodec.md) -/

/-- R114: FENC sets FT, TREE, CT, PK and EFF from DIN alone; only CapacityExceeded can arise. -/
def Obligations.FencEncodesDin : Prop :=
  decode 0x00000009#32 = some .fenc ∧
  ∀ s : State, ∃ c : CodeTable, codesOf (buildTree (freqOf s.din)) = .ok c ∧ Covers c s.din ∧
    (PackFits s.cap c s.din → ∃ (o : Bytes) (e : Byte),
      exec .fenc s =
        .next ((((((s.setFt (freqOf s.din)).setTree (buildTree (freqOf s.din))).setCt c).setPk o).setEff e).succeed 0x09#8) ∧
      PackedAs o e (bitsOf c s.din) ∧ ZeroAfter o (bitsOf c s.din).length ∧ (s.din = [] → e = 8#8)) ∧
    (¬ PackFits s.cap c s.din → exec .fenc s = .next (s.abort 0x09#8 .capacityExceeded))

/-- R115: FDEC rebuilds TREE from CT and appends the bytes whose code bits PK holds; a table that is not prefix-free is
Malformed, and so are bits that are no sequence of codes and an EFF outside 1 to 8. -/
def Obligations.FdecDecodesPayload : Prop :=
  decode 0x0000000A#32 = some .fdec ∧
  ∀ s : State, CtWf s.ct →
    (∀ d : Bytes, PrefixFree s.ct → Covers s.ct d → PackedAs s.pk s.eff (bitsOf s.ct d) →
      (s.dout.length + d.length ≤ s.cap →
        ∃ t : Tree, toTrie s.ct = .ok t ∧ exec .fdec s = .next (((s.setDout (s.dout ++ d)).setTree t).succeed 0x0A#8)) ∧
      (s.cap < s.dout.length + d.length → exec .fdec s = .next (s.abort 0x0A#8 .capacityExceeded))) ∧
    (¬ PrefixFree s.ct → exec .fdec s = .next (s.abort 0x0A#8 .malformed)) ∧
    ((¬ ∃ d : Bytes, Covers s.ct d ∧ PackedAs s.pk s.eff (bitsOf s.ct d)) →
      exec .fdec s = .next (s.abort 0x0A#8 .malformed))

/-- The property R123, which the spec marks as derived from R114, R115, R122 and R110. After a FENC that succeeded,
FDEC appends exactly DIN; and so it does after PWR appended the frame and PRD read it back. -/
def Obligations.FencThenFdecRestores : Prop :=
  ∀ s s1 : State, exec .fenc s = .next s1 → s1.err = 0 →
    (s1.dout.length + s1.din.length ≤ s1.cap →
      exec .fdec s1 = .next ((s1.setDout (s1.dout ++ s.din)).succeed 0x0A#8)) ∧
    (∀ s2 : State, exec .pwr s1 = .next s2 → s2.err = 0 →
      ∀ s3 : State, s3 = { s2 with din := s2.dout, pos := s1.dout.length } →
        exec .prd s3 = .next ((s3.setPos s2.dout.length).succeed 0x0C#8) ∧
        ∀ s4 : State, exec .prd s3 = .next s4 → s4.dout.length + s.din.length ≤ s4.cap →
          exec .fdec s4 = .next ((s4.setDout (s4.dout ++ s.din)).succeed 0x0A#8))

/-- R116, R117: PWR appends the payload frame of PK, EFF and CT; Malformed for a bad EFF; CapacityExceeded for too much. -/
def Obligations.PwrAppendsFrame : Prop :=
  decode 0x0000000B#32 = some .pwr ∧
  ∀ s : State, CtWf s.ct →
    (validEff s.eff = true → s.pk.length ≤ Config.maxField →
      s.dout.length + (frameBytesWith s.ct s.eff s.pk).length ≤ s.cap →
      exec .pwr s = .next ((s.setDout (s.dout ++ frameBytesWith s.ct s.eff s.pk)).succeed 0x0B#8)) ∧
    (validEff s.eff = false → exec .pwr s = .next (s.abort 0x0B#8 .malformed)) ∧
    (validEff s.eff = true →
      (Config.maxField < s.pk.length ∨ s.cap < s.dout.length + (frameBytesWith s.ct s.eff s.pk).length) →
      exec .pwr s = .next (s.abort 0x0B#8 .capacityExceeded))

/-- R118, R119, R83: PRD reads the payload frame at POS into CT, EFF and PK and sets POS past it, and it accepts nothing
but a frame; a payloadLength above MAX_FIELD and an EFF outside 1 to 8 are Malformed, the table's error is the one TDES
raises there, and a frame cut short is TruncatedStream. -/
def Obligations.PrdReadsFrame : Prop :=
  (∀ (s : State) (f : Frame) (l : List (Byte × Bits)) (pre r : Bytes), FrameWf f → l.Perm f.table →
    s.din = pre ++ frameBytesWith l f.eff f.packed ++ r → s.pos = pre.length →
    exec .prd s =
      .next (((((s.setCt f.table).setEff f.eff).setPk f.packed).setPos
        (pre.length + (frameBytesWith l f.eff f.packed).length)).succeed 0x0C#8)) ∧
  (∀ s : State,
    (∃ (f : Frame) (l : List (Byte × Bits)) (pre r : Bytes), FrameWf f ∧ l.Perm f.table ∧
      s.din = pre ++ frameBytesWith l f.eff f.packed ++ r ∧ s.pos = pre.length) ∨
    exec .prd s = .next (s.abort 0x0C#8 .truncatedStream) ∨ exec .prd s = .next (s.abort 0x0C#8 .malformed)) ∧
  (∀ (s : State) (len : Nat) (pre r : Bytes), Config.maxField < len → len < 2 ^ 32 → s.din = pre ++ u32 len ++ r →
    s.pos = pre.length → exec .prd s = .next (s.abort 0x0C#8 .malformed)) ∧
  (∀ (s : State) (len : Nat) (e : Byte) (pre r : Bytes), len ≤ Config.maxField → validEff e = false →
    s.din = pre ++ u32 len ++ [e] ++ r → s.pos = pre.length → exec .prd s = .next (s.abort 0x0C#8 .malformed)) ∧
  (∀ (s : State) (len : Nat) (e : Byte) (pre r : Bytes) (err : Err), len ≤ Config.maxField → validEff e = true →
    s.din = pre ++ u32 len ++ [e] ++ r → s.pos = pre.length →
    exec .tdes (s.setPos (pre.length + 5)) = .next ((s.setPos (pre.length + 5)).abort 0x06#8 err) →
    exec .prd s = .next (s.abort 0x0C#8 err)) ∧
  (∀ (s : State) (f : Frame) (l : List (Byte × Bits)) (pre : Bytes) (k : Nat), FrameWf f → l.Perm f.table →
    k < (frameBytesWith l f.eff f.packed).length → s.din = pre ++ (frameBytesWith l f.eff f.packed).take k →
    s.pos = pre.length → exec .prd s = .next (s.abort 0x0C#8 .truncatedStream))

/-- R120, R121: PSKIP sets POS past the frame at POS, whatever the bytes of its EFF, byte values, units and packed bytes
are; anything else at POS, a frame cut short included, is TruncatedStream. -/
def Obligations.PskipSkipsFrame : Prop :=
  (∀ (s : State) (f : RawFrame) (pre r : Bytes), f.Fits → s.din = pre ++ rawFrameBytes f ++ r → s.pos = pre.length →
    exec .pskip s = .next ((s.setPos (pre.length + (rawFrameBytes f).length)).succeed 0x0D#8)) ∧
  (∀ s : State,
    (∃ (f : RawFrame) (pre r : Bytes), f.Fits ∧ s.din = pre ++ rawFrameBytes f ++ r ∧ s.pos = pre.length) ∨
    exec .pskip s = .next (s.abort 0x0D#8 .truncatedStream)) ∧
  (∀ (s : State) (f : RawFrame) (pre : Bytes) (k : Nat), f.Fits → k < (rawFrameBytes f).length →
    s.din = pre ++ (rawFrameBytes f).take k → s.pos = pre.length →
    exec .pskip s = .next (s.abort 0x0D#8 .truncatedStream))

/-- The property R122, which the spec marks as derived from R116, R118, R120 and R103. A frame written is read back
whole, and skipping it ends at the same place. -/
def Obligations.FrameRoundTrip : Prop :=
  ∀ (f : Frame) (r : Bytes), FrameWf f →
    ∃ o : Bytes, frameWrite f.packed f.eff f.table = .ok o ∧
      frameRead (o ++ r) 0 = .ok (f, o.length) ∧ frameSkip (o ++ r) 0 = .ok o.length

/-! ## Container and header (44_container.md, 45_archive_header.md) -/

/-- R126, R127: EWR appends the entry of NAME, a directory's or a file's with its frame. -/
def Obligations.EwrAppendsEntry : Prop :=
  decode 0x0000000E#32 = some .ewrDir ∧ decode 0x0000010E#32 = some .ewrFile ∧
  ∀ s : State, s.name.length ≤ Config.maxStr →
    (s.dout.length + (dirBytes s.name).length ≤ s.cap →
      exec .ewrDir s = .next ((s.setDout (s.dout ++ dirBytes s.name)).succeed 0x0E#8)) ∧
    (s.cap < s.dout.length + (dirBytes s.name).length →
      exec .ewrDir s = .next (s.abort 0x0E#8 .capacityExceeded)) ∧
    (FrameWf ⟨s.ct, s.eff, s.pk⟩ → s.dout.length + (fileBytes s.name ⟨s.ct, s.eff, s.pk⟩).length ≤ s.cap →
      exec .ewrFile s = .next ((s.setDout (s.dout ++ fileBytes s.name ⟨s.ct, s.eff, s.pk⟩)).succeed 0x0E#8)) ∧
    (validEff s.eff = false → exec .ewrFile s = .next (s.abort 0x0E#8 .malformed)) ∧
    (CtWf s.ct → validEff s.eff = true →
      (Config.maxField < s.pk.length ∨ s.cap < s.dout.length + (fileBytes s.name ⟨s.ct, s.eff, s.pk⟩).length) →
      exec .ewrFile s = .next (s.abort 0x0E#8 .capacityExceeded))

/-- R128, R129, R83: ERD reads the entry at POS; at the end of DIN it sets KIND to 0 and nothing else; past the end it is
TruncatedStream, and so is an entry cut short after its first byte; an unknown tag, a payloadLength above MAX_FIELD and an
EFF outside 1 to 8 are Malformed, and a file entry's frame raises what PRD raises there. It accepts nothing but entries. -/
def Obligations.ErdReadsEntry : Prop :=
  ∀ s : State,
    (s.pos = s.din.length → exec .erd s = .next ((s.setKind 0).succeed 0x0F#8)) ∧
    (s.din.length < s.pos → exec .erd s = .next (s.abort 0x0F#8 .truncatedStream)) ∧
    (∀ q pre r : Bytes, q.length ≤ Config.maxStr → s.din = pre ++ dirBytes q ++ r → s.pos = pre.length →
      exec .erd s =
        .next ((((s.setKind 1).setName q).setPos (pre.length + (dirBytes q).length)).succeed 0x0F#8)) ∧
    (∀ (q : Bytes) (f : Frame) (l : List (Byte × Bits)) (pre r : Bytes), q.length ≤ Config.maxStr → FrameWf f →
      l.Perm f.table →
      s.din = pre ++ [0x00#8, 0x02#8, 0x46#8, 0x49#8] ++ strBytes q ++ frameBytesWith l f.eff f.packed ++ r →
      s.pos = pre.length →
      exec .erd s =
        .next (((((((s.setKind 2).setName q).setPos
          (pre.length + 6 + q.length + (frameBytesWith l f.eff f.packed).length)).setCt f.table).setEff
          f.eff).setPk f.packed).succeed 0x0F#8)) ∧
    (∀ tag pre r : Bytes, tag.length ≤ Config.maxStr → tag ≠ [0x46#8] → tag ≠ [0x46#8, 0x49#8] →
      s.din = pre ++ strBytes tag ++ r → s.pos = pre.length → exec .erd s = .next (s.abort 0x0F#8 .malformed)) ∧
    (∀ (q pre : Bytes) (k : Nat), q.length ≤ Config.maxStr → 0 < k → k < (dirBytes q).length →
      s.din = pre ++ (dirBytes q).take k → s.pos = pre.length → exec .erd s = .next (s.abort 0x0F#8 .truncatedStream)) ∧
    (∀ (q : Bytes) (f : Frame) (pre : Bytes) (k : Nat), q.length ≤ Config.maxStr → FrameWf f → 0 < k →
      k < (fileBytes q f).length → s.din = pre ++ (fileBytes q f).take k → s.pos = pre.length →
      exec .erd s = .next (s.abort 0x0F#8 .truncatedStream)) ∧
    (∀ (q pre r : Bytes) (len : Nat), q.length ≤ Config.maxStr → Config.maxField < len → len < 2 ^ 32 →
      s.din = pre ++ [0x00#8, 0x02#8, 0x46#8, 0x49#8] ++ strBytes q ++ u32 len ++ r → s.pos = pre.length →
      exec .erd s = .next (s.abort 0x0F#8 .malformed)) ∧
    (∀ (q pre r : Bytes) (len : Nat) (e : Byte), q.length ≤ Config.maxStr → len ≤ Config.maxField → validEff e = false →
      s.din = pre ++ [0x00#8, 0x02#8, 0x46#8, 0x49#8] ++ strBytes q ++ u32 len ++ [e] ++ r → s.pos = pre.length →
      exec .erd s = .next (s.abort 0x0F#8 .malformed)) ∧
    (∀ (q pre r : Bytes) (err : Err), q.length ≤ Config.maxStr →
      s.din = pre ++ [0x00#8, 0x02#8, 0x46#8, 0x49#8] ++ strBytes q ++ r → s.pos = pre.length →
      exec .prd (s.setPos (pre.length + 6 + q.length)) =
        .next ((s.setPos (pre.length + 6 + q.length)).abort 0x0C#8 err) →
      exec .erd s = .next (s.abort 0x0F#8 err)) ∧
    (s.pos = s.din.length ∨
      (∃ q pre r : Bytes, q.length ≤ Config.maxStr ∧ s.din = pre ++ dirBytes q ++ r ∧ s.pos = pre.length) ∨
      (∃ (q : Bytes) (f : Frame) (l : List (Byte × Bits)) (pre r : Bytes), q.length ≤ Config.maxStr ∧ FrameWf f ∧
        l.Perm f.table ∧ s.din = pre ++ [0x00#8, 0x02#8, 0x46#8, 0x49#8] ++ strBytes q ++
          frameBytesWith l f.eff f.packed ++ r ∧ s.pos = pre.length) ∨
      exec .erd s = .next (s.abort 0x0F#8 .truncatedStream) ∨ exec .erd s = .next (s.abort 0x0F#8 .malformed))

/-- The property R134, which the spec marks as derived from R126, R128 and R122. Entries written one after another
are read back in the same order, and then the end. -/
def Obligations.EntriesReadBack : Prop :=
  ∀ (es : List (Entry Frame)) (pre : Bytes), (∀ e ∈ es, EntryFits e) →
    ReadsAs (pre ++ es.flatMap entryBytes) es pre.length

/-- 45_archive_header.md R135, R137: HWR appends the signature of its kind and NAME as a string. -/
def Obligations.HwrAppendsHeader : Prop :=
  decode 0x00000010#32 = some .hwrFile ∧ decode 0x00000110#32 = some .hwrFold ∧
  ∀ s : State, s.name.length ≤ Config.maxStr →
    (s.dout.length + (7 + s.name.length) ≤ s.cap →
      exec .hwrFile s = .next ((s.setDout (s.dout ++ headerBytes false s.name)).succeed 0x10#8) ∧
      exec .hwrFold s = .next ((s.setDout (s.dout ++ headerBytes true s.name)).succeed 0x10#8)) ∧
    (s.cap < s.dout.length + (7 + s.name.length) →
      exec .hwrFile s = .next (s.abort 0x10#8 .capacityExceeded) ∧
      exec .hwrFold s = .next (s.abort 0x10#8 .capacityExceeded))

/-- 45_archive_header.md R136, R138: HRD reads a header of its kind at POS; other bytes there, or too few, are
UnrecognizedFormat; a name cut short is TruncatedStream. -/
def Obligations.HrdReadsHeader : Prop :=
  decode 0x00000011#32 = some .hrdFile ∧ decode 0x00000111#32 = some .hrdFold ∧
  ∀ (s : State) (fold : Bool) (i : Instr), i = (if fold then .hrdFold else .hrdFile) →
    (∀ name pre r : Bytes, name.length ≤ Config.maxStr → s.din = pre ++ headerBytes fold name ++ r → s.pos = pre.length →
      exec i s = .next (((s.setName name).setPos (pre.length + 7 + name.length)).succeed 0x11#8)) ∧
    ((s.din.drop s.pos).take 5 ≠ (headerBytes fold []).take 5 →
      exec i s = .next (s.abort 0x11#8 .unrecognizedFormat)) ∧
    (∀ name pre : Bytes, ∀ k, name.length ≤ Config.maxStr → k < 2 + name.length →
      s.din = pre ++ (headerBytes fold name).take (5 + k) → s.pos = pre.length →
      exec i s = .next (s.abort 0x11#8 .truncatedStream))

/-! ## Operations (46_operations.md) -/

/-- R142, R143, R164, R192: with a host that keeps its duties and serves the requests (log 2, 5, 7), CFILE reads PIN twice
and writes the single-file archive of its bytes to the output path, by exactly these requests, and changes no register but
STATUS and no other path, whatever the length of the file; packed bytes past MAX_FIELD or BUF_CAP are CapacityExceeded
before any write, and so is an archive past BUF_CAP (20_memory.md R42, log 11). -/
def Obligations.CfileWritesArchive : Prop :=
  ∀ (s : State) (d : Bytes) (c : CodeTable) (out : Bytes),
    Quiet 6 s.host → fsLookup s.host.files s.pin = some (.file d) → validName (lastSeg s.pin) = true →
    (lastSeg s.pin).length ≤ Config.maxStr → codesOf (buildTree (freqOf d)) = .ok c →
    out = (if s.pout = [] then s.pin ++ s.params.archiveExt else s.pout) →
    (PackFits s.cap c d → 7 + (lastSeg s.pin).length + frameLength c (bitsOf c d).length ≤ s.cap →
      ∃ (t : State) (f : Frame), exec .cfile s = .next t ∧ t = (s.setHost t.host).succeed 0x18#8 ∧
        f.table = c ∧ Decodes f d ∧ ZeroAfter f.packed (bitsOf c d).length ∧ (d = [] → f.eff = 8) ∧
        requests t = requests s ++ [.stat s.pin, .read s.pin, .read s.pin, .create out,
          .append (headerBytes false (lastSeg s.pin) ++ frameBytes f), .close] ∧
        fsLookup t.host.files out = some (.file (headerBytes false (lastSeg s.pin) ++ frameBytes f)) ∧
        ∀ p, p ≠ out → fsLookup t.host.files p = fsLookup s.host.files p) ∧
    (¬ PackFits s.cap c d ∨ s.cap < 7 + (lastSeg s.pin).length + frameLength c (bitsOf c d).length →
      ∃ t : State, exec .cfile s = .next t ∧ t = (s.setHost t.host).abort 0x18#8 .capacityExceeded ∧
        requests t = requests s ++ [.stat s.pin, .read s.pin, .read s.pin] ∧ t.host.files = s.host.files)

/-- R144: with a host that keeps its duties and serves the requests (log 2, 5, 7), and an archive and contents within
BUF_CAP (log 10, 11), DFILE writes the decoded bytes to PDST under the archive's file name, by exactly these requests, and
changes no other path. -/
def Obligations.DfileRestoresFile : Prop :=
  ∀ (s : State) (name d : Bytes) (f : Frame),
    Quiet 2 s.host → fsLookup s.host.files s.pin = some (.file (headerBytes false name ++ frameBytes f)) →
    (headerBytes false name ++ frameBytes f).length ≤ s.cap →
    validName name = true → name.length ≤ Config.maxStr → Decodes f d → d.length ≤ s.cap →
    ∃ t : State, exec .dfile s = .next t ∧ t = (s.setHost t.host).succeed 0x19#8 ∧
      requests t = requests s ++ [.read s.pin, .writeFile (join s.pdst name) d] ∧
      fsLookup t.host.files (join s.pdst name) = some (.file d) ∧
      ∀ p, p ≠ join s.pdst name → fsLookup t.host.files p = fsLookup s.host.files p

/-- The property R154, which the spec marks as derived from R142, R144 and R110. DFILE of the archive a successful CFILE
wrote issues H_WRITEFILE(join(PDST, last_seg(PIN)), d), where the host serves its H_READ. The host model is log 2 and 5,
the BUF_CAP bounds of the streams log 10 and 11. -/
def Obligations.CfileThenDfile : Prop :=
  ∀ (s t u : State) (d : Bytes), s.host.mayChange = false → fsLookup s.host.files s.pin = some (.file d) →
    exec .cfile s = .next t → t.err = 0 →
    u.host.files = t.host.files → u.host.mayChange = false → u.host.draw.fail = false → u.host.draw.view ≠ .missing →
    u.pin = (if s.pout = [] then s.pin ++ s.params.archiveExt else s.pout) → d.length ≤ u.cap →
    (∀ a, fsLookup u.host.files u.pin = some (.file a) → a.length ≤ u.cap) →
    ∃ (v : State) (a : Bytes) (r : HostReply), exec .dfile u = .next v ∧
      v.host.trace = u.host.trace ++ [(.read u.pin, .data a), (.writeFile (join u.pdst (lastSeg s.pin)) d, r)]

/-- R145 to R149, R164, R57, R61: with a host that keeps its duties and serves the requests (log 2, 3, 5, 7), an output
outside the tree, and each stream CDIR builds within BUF_CAP (20_memory.md R42, log 11), CDIR writes the header and the
entries of the tree in walk order, children sorted, by exactly the requests of the walk, and no other path changes; where
the last H_CLOSE alone fails it ends with IOFailure, and the archive holds all that was appended; where the tree is nested
deeper than WALK_DEPTH_MAX it stops before the H_LIST of the first directory that is too deep, closes the archive and ends
with CapacityExceeded. Where the output is PIN itself, that H_CREATE is answered OK and its effect are log 7. The tree's
children are those HostListsEachChildOnce speaks of. -/
def Obligations.CdirWritesTree : Prop :=
  ∀ (s : State) (out : Bytes) (frame : Bytes → Frame),
    fsLookup s.host.files s.pin = some .dir → validName (lastSeg s.pin) = true →
    (lastSeg s.pin).length ≤ Config.maxStr → (headerBytes true (lastSeg s.pin)).length ≤ s.cap →
    out = (if s.pout = [] then s.pin ++ s.params.archiveExt else s.pout) → descendant out s.pin = false →
    (∀ (es : List (Bytes × Option Bytes)) (qs : List HostReq),
      treeEntries s.params.walkDepthMax s.host.files s.pin [] = some es →
      (∀ e ∈ es, e.1.length ≤ Config.maxStr ∧ (walkEntryBytes frame e).length ≤ s.cap) →
      (∀ e ∈ es, ∀ d, e.2 = some d → FrameOf s.cap frame d) →
      treeRequests frame s.params.walkDepthMax s.host.files s.pin [] = some qs →
      Quiet (3 + qs.length) s.host → ∀ d : Draw, s.host.draws[3 + qs.length]? = some d →
      ∃ t : State, exec .cdir s = .next t ∧
        t = (if d.fail then (s.setHost t.host).abort 0x1A#8 .ioFailure else (s.setHost t.host).succeed 0x1A#8) ∧
        requests t =
          requests s ++ [.stat s.pin, .create out, .append (headerBytes true (lastSeg s.pin))] ++ qs ++ [.close] ∧
        fsLookup t.host.files out = some (.file (headerBytes true (lastSeg s.pin) ++ entriesBytes frame es)) ∧
        ∀ p, p ≠ out → fsLookup t.host.files p = fsLookup s.host.files p) ∧
    (∀ qs : List HostReq, walkRequests frame s.params.walkDepthMax s.host.files s.pin [] = (qs, false) →
      (∀ p c, fsLookup s.host.files p ≠ some (.special c)) →
      (∀ p, (fsLookup s.host.files p).isSome = true → p.length ≤ Config.maxStr ∧ (dirBytes p).length ≤ s.cap) →
      (∀ p d, fsLookup s.host.files p = some (.file d) →
        FrameOf s.cap frame d ∧ (fileBytes p (frame d)).length ≤ s.cap) →
      Quiet (4 + qs.length) s.host →
      ∃ t : State, exec .cdir s = .next t ∧ t = (s.setHost t.host).abort 0x1A#8 .capacityExceeded ∧
        requests t =
          requests s ++ [.stat s.pin, .create out, .append (headerBytes true (lastSeg s.pin))] ++ qs ++ [.close])

/-- R150, R151: with a host that keeps its duties and serves the requests (log 2, 5, 7), and an archive and contents within
BUF_CAP (log 10, 11), DDIR makes the root directory and then, entry by entry in stream order, each directory and each file
with its decoded bytes, by exactly these requests; a path no request touches keeps its node. -/
def Obligations.DdirRecreatesEntries : Prop :=
  ∀ (s : State) (root base : Bytes) (es : List (Bytes × Option Bytes)) (frame : Bytes → Frame) (qs : List HostReq),
    fsLookup s.host.files s.pin = some (.file (headerBytes true root ++ entriesBytes frame es)) →
    (headerBytes true root ++ entriesBytes frame es).length ≤ s.cap →
    validName root = true → root.length ≤ Config.maxStr → base = join s.pdst root →
    (∀ e ∈ es, validPath e.1 = true ∧ e.1.length ≤ Config.maxStr) →
    (∀ e ∈ es, ∀ d, e.2 = some d → Decodes (frame d) d ∧ d.length ≤ s.cap) →
    qs = .mkdirs base :: es.flatMap (entryRequests base) → Quiet (1 + qs.length) s.host →
    ∃ t : State, exec .ddir s = .next t ∧ t = (s.setHost t.host).succeed 0x1B#8 ∧
      requests t = requests s ++ [.read s.pin] ++ qs ∧
      ∀ p, (∀ q ∈ qs, p ∉ touched q) → fsLookup t.host.files p = fsLookup s.host.files p

/-- The property R153, which the spec marks as derived from R145, R146, R150, R151 and R110. DDIR of the archive a
successful CDIR wrote recreates the tree: every directory and every file's bytes at the same relative path under
join(PDST, last_seg(PIN)), where the host serves its requests and BUF_CAP holds the archive. The host model is log 2, 5 and
7, the BUF_CAP bounds of the streams log 10 and 11. -/
def Obligations.CdirThenDdir : Prop :=
  ∀ (s t u : State) (out base : Bytes) (es : List (Bytes × Option Bytes)),
    s.host.mayChange = false → fsLookup s.host.files s.pin = some .dir →
    out = (if s.pout = [] then s.pin ++ s.params.archiveExt else s.pout) → descendant out s.pin = false →
    treeEntries s.params.walkDepthMax s.host.files s.pin [] = some es →
    exec .cdir s = .next t → t.err = 0 →
    u.host.files = t.host.files → u.pin = out → (∀ e ∈ es, ∀ d, e.2 = some d → d.length ≤ u.cap) →
    (∀ a, fsLookup u.host.files out = some (.file a) → a.length ≤ u.cap) →
    base = join u.pdst (lastSeg s.pin) →
    Quiet (2 + (es.flatMap (entryRequests base)).length) u.host →
    ∃ v : State, exec .ddir u = .next v ∧ v.err = 0 ∧ fsLookup v.host.files base = some .dir ∧
      ∀ e ∈ es, fsLookup v.host.files (join base e.1) =
        (match e.2 with
          | none => some .dir
          | some d => some (.file d))

/-- R158, R160, R161: PREV lists every entry of a folder archive at its depth, whatever the bytes of the payloads are, sets
NAME to the root's name, and changes nothing else. -/
def Obligations.PrevListsEntries : Prop :=
  ∀ (s : State) (root : Bytes) (es : List (Bytes × Option RawFrame)),
    Quiet 1 s.host → root.length ≤ Config.maxStr →
    fsLookup s.host.files s.pin = some (.file (headerBytes true root ++ es.flatMap rawEntryBytes)) →
    (headerBytes true root ++ es.flatMap rawEntryBytes).length ≤ s.cap →
    (∀ e ∈ es, e.1.length ≤ Config.maxStr ∧ ∀ f, e.2 = some f → f.Fits) →
    ∃ t : State, exec .prev s = .next t ∧
      t = (((s.setHost t.host).setPvw (listing (es.map (fun e => (e.2.isNone, e.1))) [])).setName root).succeed 0x1C#8 ∧
      requests t = requests s ++ [.read s.pin] ∧ t.host.files = s.host.files

/-- R158, R159, R63: what PREV leaves when it fails. PVW is empty and NAME unchanged where its one H_READ or the header
failed: MISSING is NotFound, IOFAIL is IOFailure, and a header error is that of the header; an archive longer than BUF_CAP
is IOFailure, which is the model's choice (log 11). Where a later entry failed, PVW holds the items before it and NAME is
set. -/
def Obligations.PrevKeepsItemsOnError : Prop :=
  ∀ (s : State) (h : HostSide), h = s.host.after (.read s.pin) →
    (s.host.reply (.read s.pin) = .missing ∨ s.host.reply (.read s.pin) = .ioFail ∨
      ∃ a, s.host.reply (.read s.pin) = .data a) ∧
    (s.host.reply (.read s.pin) = .missing →
      exec .prev s = .next (((s.setHost h).setPvw []).abort 0x1C#8 .notFound)) ∧
    (s.host.reply (.read s.pin) = .ioFail →
      exec .prev s = .next (((s.setHost h).setPvw []).abort 0x1C#8 .ioFailure)) ∧
    (∀ a, s.host.reply (.read s.pin) = .data a → s.cap < a.length →
      exec .prev s = .next (((s.setHost h).setPvw []).abort 0x1C#8 .ioFailure)) ∧
    (∀ a e, s.host.reply (.read s.pin) = .data a → a.length ≤ s.cap → headerRead a 0 true = .error e →
      exec .prev s = .next (((s.setHost h).setPvw []).abort 0x1C#8 e)) ∧
    (∀ (root : Bytes) (es : List (Bytes × Option RawFrame)) (a r : Bytes) (e : Err),
      s.host.reply (.read s.pin) = .data a → a.length ≤ s.cap → root.length ≤ Config.maxStr →
      a = headerBytes true root ++ es.flatMap rawEntryBytes ++ r →
      (∀ x ∈ es, x.1.length ≤ Config.maxStr ∧ ∀ f, x.2 = some f → f.Fits) →
      entrySkip a (a.length - r.length) = .error e →
      exec .prev s =
        .next ((((s.setHost h).setPvw (listing (es.map (fun x => (x.2.isNone, x.1))) [])).setName root).abort 0x1C#8 e))

/-- R142, R145, R173: CFILE of what is no file, CDIR of what is no directory, and either of a path whose last segment is no
valid name, end with NotFound after one H_STAT; an IOFAIL there is IOFailure. -/
def Obligations.CompressionChecksInputFirst : Prop :=
  ∀ s : State, ∃ h : HostSide, h = s.host.after (.stat s.pin) ∧
    (s.host.reply (.stat s.pin) = .ioFail →
      exec .cfile s = .next ((s.setHost h).abort 0x18#8 .ioFailure) ∧
      exec .cdir s = .next ((s.setHost h).abort 0x1A#8 .ioFailure)) ∧
    (s.host.reply (.stat s.pin) = .missing ∨ s.host.reply (.stat s.pin) = .dir →
      exec .cfile s = .next ((s.setHost h).abort 0x18#8 .notFound)) ∧
    (s.host.reply (.stat s.pin) = .missing ∨ s.host.reply (.stat s.pin) = .file →
      exec .cdir s = .next ((s.setHost h).abort 0x1A#8 .notFound)) ∧
    (validName (lastSeg s.pin) = false → s.host.reply (.stat s.pin) ≠ .ioFail →
      exec .cfile s = .next ((s.setHost h).abort 0x18#8 .notFound) ∧
      exec .cdir s = .next ((s.setHost h).abort 0x1A#8 .notFound))

/-- The property R140, which the spec marks as derived from R136 and R150, with R139 and R144: a decoding operation that ends
with UnrecognizedFormat, and a DFILE that ends with any error but IOFailure, made one H_READ and no other request; DFILE
makes no request but that and one H_WRITEFILE of a valid name under PDST. After an H_READ that answers an archive within
BUF_CAP (log 11), a signature of another kind is UnrecognizedFormat, a name that is not valid and, for DFILE, trailing bytes
are Malformed, and in general DFILE ends with the error of decoding the archive (log 10 for the file's length) and DDIR
with that of its header. -/
def Obligations.NoWriteBeforeHeader : Prop :=
  (∀ (i : Instr) (s t : State), i = .dfile ∨ i = .ddir ∨ i = .prev → exec i s = .next t → t.err = 2 →
    ∃ r : HostReply, t.host.trace = s.host.trace ++ [(.read s.pin, r)]) ∧
  (∀ s t : State, exec .dfile s = .next t → t.err ≠ 0 → t.err ≠ 5 →
    ∃ r : HostReply, t.host.trace = s.host.trace ++ [(.read s.pin, r)]) ∧
  (∀ s t : State, exec .dfile s = .next t → ∃ r : HostReply,
    t.host.trace = s.host.trace ++ [(.read s.pin, r)] ∨
    ∃ (name d : Bytes) (r' : HostReply), validName name = true ∧
      t.host.trace = s.host.trace ++ [(.read s.pin, r), (.writeFile (join s.pdst name) d, r')]) ∧
  ∀ (s : State) (a : Bytes) (h : HostSide), s.host.reply (.read s.pin) = .data a → a.length ≤ s.cap →
    h = s.host.after (.read s.pin) →
    (∀ e, openFileArchive s.cap a = .error e → exec .dfile s = .next ((s.setHost h).abort 0x19#8 e)) ∧
    (∀ e, openFolder a = .error e → exec .ddir s = .next ((s.setHost h).abort 0x1B#8 e)) ∧
    (a.take 5 ≠ (headerBytes false []).take 5 →
      exec .dfile s = .next ((s.setHost h).abort 0x19#8 .unrecognizedFormat)) ∧
    (a.take 5 ≠ (headerBytes true []).take 5 →
      exec .ddir s = .next ((s.setHost h).abort 0x1B#8 .unrecognizedFormat) ∧
      exec .prev s = .next (((s.setHost h).setPvw []).abort 0x1C#8 .unrecognizedFormat)) ∧
    (∀ name r : Bytes, name.length ≤ Config.maxStr → validName name = false →
      (a = headerBytes false name ++ r → exec .dfile s = .next ((s.setHost h).abort 0x19#8 .malformed)) ∧
      (a = headerBytes true name ++ r → exec .ddir s = .next ((s.setHost h).abort 0x1B#8 .malformed))) ∧
    (∀ (name r : Bytes) (f : Frame), name.length ≤ Config.maxStr → FrameWf f → r ≠ [] →
      a = headerBytes false name ++ frameBytes f ++ r →
      exec .dfile s = .next ((s.setHost h).abort 0x19#8 .malformed)) ∧
    (∀ (name r : Bytes) (e : Err), name.length ≤ Config.maxStr → validName name = true →
      a = headerBytes false name ++ r → frameRead a (7 + name.length) = .error e →
      exec .dfile s = .next ((s.setHost h).abort 0x19#8 e))

/-- R131, R150 to R152, R140: on every host, DDIR makes a request after its H_READ only where that answered an archive whose
header was accepted; the first one is the H_MKDIRS of the root directory that the header names, under PDST, and each is an
H_MKDIRS or H_WRITEFILE of that directory or of a valid relative path under it. Where an entry fails before its requests,
with a host that serves the others (log 2), and an archive within BUF_CAP (log 11), DDIR has made exactly the requests of the
entries before it and ends with that entry's error; that an entry whose bytes decode past BUF_CAP fails so, with
CapacityExceeded (R172) before any of its requests, is log 10. -/
def Obligations.DdirWritesUnderItsRoot : Prop :=
  (∀ s t : State, exec .ddir s = .next t →
    ∃ (r : HostReply) (new : List (HostReq × HostReply)),
      t.host.trace = s.host.trace ++ [(.read s.pin, r)] ++ new ∧
      (new ≠ [] → ∃ a root rest : Bytes, r = .data a ∧ a = headerBytes true root ++ rest ∧
        openFolder a = .ok (root, a.length - rest.length) ∧ validName root = true ∧
        (new.head?).map Prod.fst = some (.mkdirs (join s.pdst root)) ∧
        ∀ x ∈ new, ∃ p, writePath x.1 = some p ∧ Under (join s.pdst root) p)) ∧
  (∀ (s : State) (root base r : Bytes) (es : List (Bytes × Option Bytes)) (frame : Bytes → Frame) (qs : List HostReq)
    (a : Bytes) (e : Err),
    fsLookup s.host.files s.pin = some (.file a) → a = headerBytes true root ++ entriesBytes frame es ++ r →
    a.length ≤ s.cap → validName root = true → root.length ≤ Config.maxStr → base = join s.pdst root →
    (∀ x ∈ es, validPath x.1 = true ∧ x.1.length ≤ Config.maxStr) →
    (∀ x ∈ es, ∀ d, x.2 = some d → Decodes (frame d) d ∧ d.length ≤ s.cap) →
    entryError s.cap a (a.length - r.length) = some e →
    qs = .mkdirs base :: es.flatMap (entryRequests base) → Quiet (1 + qs.length) s.host →
    ∃ t : State, exec .ddir s = .next t ∧ t = (s.setHost t.host).abort 0x1B#8 e ∧
      requests t = requests s ++ [.read s.pin] ++ qs)

/-- R163, R57, R63, R143 to R146, R150 to R152, R164, R188, on every host: no command leaves an archive open; where CFILE or
CDIR opened one, H_CLOSE is its last request, and where it opened none it issues no H_CLOSE. An operation command ends on
its first bad reply, with no request after it but that H_CLOSE where the archive is open: a MISSING is NotFound, and an
IOFAIL is IOFailure, but that the reply of an H_CLOSE after another error of CDIR leaves that error. A second read of a file
that holds a byte the first did not is UnknownSymbol. -/
def Obligations.ArchiveClosedOnEveryPath : Prop :=
  (∀ (i : Instr) (s t : State), s.host.archive = none → exec i s = .next t →
    t.host.archive = none ∧
    ∀ new : List (HostReq × HostReply), t.host.trace = s.host.trace ++ new →
      ((∃ p, (HostReq.create p, HostReply.ok) ∈ new) → (new.getLast?).map Prod.fst = some .close) ∧
      ((∀ p, (HostReq.create p, HostReply.ok) ∉ new) → ∀ x ∈ new, x.1 ≠ .close)) ∧
  (∀ (i : Instr) (s t : State) (a b : List (HostReq × HostReply)) (q : HostReq) (r : HostReply),
    i ∈ [Instr.cfile, .dfile, .cdir, .ddir, .prev] → exec i s = .next t →
    t.host.trace = s.host.trace ++ (a ++ (q, r) :: b) →
    (r = .missing ∨ r = .ioFail →
      ((∃ p, (HostReq.create p, HostReply.ok) ∈ a) → q ≠ .close → ∃ r', b = [(.close, r')]) ∧
      ((∀ p, (HostReq.create p, HostReply.ok) ∉ a) ∨ q = .close → b = [])) ∧
    (r = .missing → t.err = 1) ∧
    (r = .ioFail → t.err ≠ 0 ∧ (q ≠ .close ∨ i = .cfile → t.err = 5)) ∧
    (∀ (p d1 d2 : Bytes) (x : Byte), q = .read p → a.getLast? = some (.read p, .data d1) → r = .data d2 →
      x ∈ d2 → x ∉ d1 → t.err = 4 ∧ (i = .cfile → b = []) ∧ (i = .cdir → ∃ r', b = [(.close, r')])))

/-! ## Errors, STATUS and frames (10_state.md, 60_exceptions.md) -/

/-- R169: a command that ends with an error leaves every register but STATUS as it was, PREV's NAME and PVW excepted; a
primitive command leaves the host's side as it was too. -/
def Obligations.ErrorLeavesRegisters : Prop :=
  ∀ (i : Instr) (s t : State), exec i s = .next t → t.err ≠ 0 →
    (i ≠ .prev → t = { s with status := t.status, host := t.host }) ∧
    (i = .prev → t = { s with status := t.status, host := t.host, name := t.name, pvw := t.pvw }) ∧
    (primitive i = true → t.host = s.host)

/-- R21, R65, R37, R58: every command completes, and it writes no register outside R65's list for it: DIN, PIN, POUT, PDST,
the parameters and the host's transactions by none; each other register only by the commands listed for it; an operation
command only STATUS and the host's side, and PREV also NAME and PVW; a primitive command makes no request. -/
def Obligations.CommandsKeepOtherRegisters : Prop :=
  ∀ (i : Instr) (s : State), ∃ t : State, exec i s = .next t ∧
    (t.din = s.din ∧ t.pin = s.pin ∧ t.pout = s.pout ∧ t.pdst = s.pdst ∧ t.params = s.params ∧ t.tx = s.tx ∧
      t.readout = s.readout) ∧
    (i ∉ [.tser, .unpack, .fdec, .pwr, .ewrDir, .ewrFile, .hwrFile, .hwrFold] → t.dout = s.dout) ∧
    (i ∉ [.tdes, .prd, .pskip, .erd, .hrdFile, .hrdFold] → t.pos = s.pos) ∧
    (i ∉ [.freq, .fenc] → t.ft = s.ft) ∧
    (i ∉ [.build, .trie, .fenc, .fdec] → t.tree = s.tree) ∧
    (i ∉ [.codes, .tdes, .fenc, .prd, .erd] → t.ct = s.ct) ∧
    (i ∉ [.pack, .fenc, .prd, .erd] → t.pk = s.pk ∧ t.eff = s.eff) ∧
    (i ∉ [.erd, .hrdFile, .hrdFold, .prev] → t.name = s.name) ∧
    (i ≠ .erd → t.kind = s.kind) ∧
    (i ≠ .prev → t.pvw = s.pvw) ∧
    (primitive i = true → t.host = s.host) ∧
    (primitive i = false → i ≠ .prev → t = { s with status := t.status, host := t.host }) ∧
    (i = .prev → t = { s with status := t.status, host := t.host, name := t.name, pvw := t.pvw })

/-- R32: commands only append to DOUT. -/
def Obligations.DoutOnlyGrows : Prop :=
  ∀ (i : Instr) (s t : State), exec i s = .next t → s.dout <+: t.dout

/-- R172: a command ends with ERR 0 or with an error its row of the table allows. -/
def Obligations.CommandsRaiseOnlyListedErrors : Prop :=
  ∀ (i : Instr) (s t : State), exec i s = .next t → t.err = 0 ∨ ∃ e ∈ mayRaise i, t.err = errCode e

/-- R24, R166: every command ends with LASTOP its opcode byte, the reserved fields 0, and ERR a code of 0 to 7. -/
def Obligations.StatusAfterCommand : Prop :=
  ∀ (i : Instr) (s : State), ∃ t : State, exec i s = .next t ∧
    t.lastOp = opcode i ∧ t.reservedStatus = 0 ∧ t.err.toNat ≤ 7

/-- R25: no command reads STATUS. -/
def Obligations.NoCommandReadsStatus : Prop :=
  ∀ (i : Instr) (s : State) (w : Word), exec i { s with status := w } = exec i s

/-- R26: PACK, FENC, PRD and ERD write only values 1 to 8 to EFF, and no other command writes it. -/
def Obligations.EffWrittenInRange : Prop :=
  ∀ (i : Instr) (s t : State), exec i s = .next t →
    t.eff = s.eff ∨ ((i = .pack ∨ i = .fenc ∨ i = .prd ∨ i = .erd) ∧ 1 ≤ t.eff.toNat ∧ t.eff.toNat ≤ 8)

/-! ## Host transactions and reset (10_state.md R22, 70_reset_and_hazards.md R182) -/

/-- R21, R22, R34, D39: a HOST_WRITE to a writable register is accepted exactly where the value fits it; it then changes no
register but its own, which reads as the value written. To a read-only or no-access register, or a number above 15, any
value is accepted and changes nothing. The form asked of a path is log 3. -/
def Obligations.HostWriteTouchesOneRegister : Prop :=
  ∀ (n : Nat) (v : RegValue) (s : State),
    (n ∈ [2, 3, 4, 5, 7, 8, 9, 10, 12, 13, 14] → ((s.hostWrite n v).isSome = true ↔ FitsRegister s.cap n v)) ∧
    (n ∈ [1, 6, 11, 15] ∨ 16 ≤ n → s.hostWrite n v = some s) ∧
    ∀ t : State, s.hostWrite n v = some t →
      sameBut n s t ∧ t.tree = s.tree ∧ t.host = s.host ∧ t.params = s.params ∧ t.tx = s.tx ∧ t.readout = s.readout ∧
      (n ∈ [2, 3, 4, 5, 7, 8, 9, 10, 12, 13, 14] → t.hostRead n = v)

/-- R22, R182, R196, D39, D49: a HOST_READ leaves every register and answers the register's value, 0 for
CMD and for a number above 15, and for TREE the name of its reset value (log 19); a HOST_WRITE of a value
that fits its register is performed, and one that does not is refused; a HOST_WRITE to a read-only or no-access register,
or to a number above 15, changes nothing; RESET sets every register to its reset value and leaves the host's side. The
queue of transactions is log 4, the form asked of a path log 3. -/
def Obligations.TransactionsStep : Prop :=
  ∀ (s : State) (rest : List HostTx),
    (∀ n, s.tx = .read n :: rest → step s = .next { s with tx := rest, readout := some (s.hostRead n) }) ∧
    (s.hostRead 0 = .word 0 ∧ s.hostRead 1 = .word s.status ∧ s.hostRead 2 = .bytes s.din ∧
      s.hostRead 3 = .bytes s.dout ∧ s.hostRead 4 = .nat s.pos ∧ s.hostRead 5 = .freqs s.ft ∧ s.hostRead 6 = .noTree ∧
      s.hostRead 7 = .table s.ct ∧ s.hostRead 8 = .bytes s.pk ∧ s.hostRead 9 = .byte s.eff ∧
      s.hostRead 10 = .bytes s.name ∧ s.hostRead 11 = .kind s.kind ∧ s.hostRead 12 = .bytes s.pin ∧
      s.hostRead 13 = .bytes s.pout ∧ s.hostRead 14 = .bytes s.pdst ∧ s.hostRead 15 = .items s.pvw ∧
      ∀ n, 16 ≤ n → s.hostRead n = .word 0) ∧
    (∀ n v, n ∈ [2, 3, 4, 5, 7, 8, 9, 10, 12, 13, 14] → s.tx = .write n v :: rest →
      (FitsRegister s.cap n v → ∃ t : State, step s = .next t ∧ t.tx = rest ∧ t.hostRead n = v ∧ sameBut n s t ∧
        t.tree = s.tree ∧ t.host = s.host ∧ t.params = s.params) ∧
      (¬ FitsRegister s.cap n v → step s = .refused (.hostWrite n))) ∧
    (∀ n v, n ∈ [1, 6, 11, 15] ∨ 16 ≤ n → s.tx = .write n v :: rest → step s = .next { s with tx := rest }) ∧
    (∀ v, (∀ w, v ≠ .word w) → s.tx = .write 0 v :: rest → step s = .refused (.hostWrite 0)) ∧
    (s.tx = .reset :: rest → step s = .next (State.resetWith s.params s.host rest s.readout)) ∧
    (s.tx = [] → step s = .next s)

/-- R40: in the reset state FDEC and UNPACK succeed and append nothing, and PWR appends the empty frame. -/
def Obligations.ResetIsEmptyPayload : Prop :=
  ∀ s : State, s = State.resetWith s.params s.host s.tx s.readout →
    exec .fdec s = .next (s.succeed 0x0A#8) ∧ exec .unpack s = .next (s.succeed 0x08#8) ∧
    (9 ≤ s.cap → exec .pwr s =
      .next ((s.setDout [0x00#8, 0x00#8, 0x00#8, 0x00#8, 0x08#8, 0x00#8, 0x00#8, 0x00#8, 0x00#8]).succeed 0x0B#8))

/-- R39, R182: after reset the registers hold the values of R39, whatever the parameters and the host are, and the invariant
holds in State.reset. -/
def Obligations.InvariantAtReset : Prop :=
  State.reset.Inv ∧
  (∃ (p : Params) (h : HostSide), State.reset = State.resetWith p h [] none ∧ h.archive = none) ∧
  ∀ (p : Params) (h : HostSide) (tx : List HostTx) (o : Option RegValue) (t : State), t = State.resetWith p h tx o →
    t.status = 0 ∧ t.din = [] ∧ t.dout = [] ∧ t.pos = 0 ∧ (∀ b, countOf t.ft b = 0) ∧ t.tree = .absent ∧
    (∀ b, codeOf t.ct b = none) ∧ t.pk = [] ∧ t.eff = 8 ∧ t.name = [] ∧ t.kind = 0 ∧ t.pin = [] ∧ t.pout = [] ∧
    t.pdst = [] ∧ t.pvw = [] ∧ t.params = p ∧ t.host = h ∧ t.tx = tx ∧ t.readout = o

/-- R21, R24, R26 to R33, R38: every step keeps the invariant of the registers, of STATUS and of the host's side. That PIN,
POUT and PDST stay in HCT's form is duty 3 of R59 as log 3 reads it: a HOST_WRITE of another path is refused (R196). -/
def Obligations.StepKeepsInvariant : Prop :=
  ∀ s t : State, s.Inv → step s = .next t → t.Inv

/-! ## The host and its paths (20_memory.md, 44_container.md) -/

/-- R59 duty 1: an H_LIST reply names each child of the path once and nothing else: the names are distinct, and they are
exactly the segments, none of them `.` or `..`, under which the filesystem has an entry below the path. The listing is the
model's (Machine.children, log 3); its order is drawn (U11). -/
def Obligations.HostListsEachChildOnce : Prop :=
  ∀ (h : HostSide) (p : Bytes) (ns : List Bytes), h.reply (.list p) = .names ns →
    ns.Nodup ∧ ∀ n, n ∈ ns ↔ validName n = true ∧ (fsLookup h.found (join p n)).isSome = true

/-- R61: what a write request that answers IOFAIL leaves, on a host that keeps duty 4. A failed H_APPEND leaves the archive
with what it held plus a prefix of the bytes; a failed H_CREATE the path unchanged, or an empty file, that is not open; a
failed H_MKDIRS some of the missing directories of the path created, ancestors before descendants; a failed H_WRITEFILE the
path unchanged, or a file with a prefix of the bytes; a failed H_CLOSE what the appends wrote. No other path changes. -/
def Obligations.FailedAppendLeavesPrefix : Prop :=
  ∀ h : HostSide, h.mayChange = false →
    (∀ p c b : Bytes, h.archive = some p → fsLookup h.files p = some (.file c) → h.reply (.append b) = .ioFail →
      (∃ k, fsLookup (h.after (.append b)).files p = some (.file (c ++ b.take k))) ∧
      ∀ q, q ≠ p → fsLookup (h.after (.append b)).files q = fsLookup h.files q) ∧
    (∀ p : Bytes, h.reply (.create p) = .ioFail →
      (h.after (.create p)).archive = none ∧
      (fsLookup (h.after (.create p)).files p = fsLookup h.files p ∨
        fsLookup (h.after (.create p)).files p = some (.file [])) ∧
      ∀ q, q ≠ p → fsLookup (h.after (.create p)).files q = fsLookup h.files q) ∧
    (∀ p : Bytes, h.reply (.mkdirs p) = .ioFail →
      (∀ q, fsLookup (h.after (.mkdirs p)).files q = fsLookup h.files q ∨
        (fsLookup h.files q = none ∧ fsLookup (h.after (.mkdirs p)).files q = some .dir ∧
          (q = p ∨ ∃ r, p = q ++ [Config.sep] ++ r))) ∧
      ∀ q d r : Bytes, q = d ++ [Config.sep] ++ r → d ≠ [] → fsLookup h.files q = none →
        fsLookup (h.after (.mkdirs p)).files q = some .dir → (fsLookup (h.after (.mkdirs p)).files d).isSome = true) ∧
    (∀ p b : Bytes, h.reply (.writeFile p b) = .ioFail →
      (fsLookup (h.after (.writeFile p b)).files p = fsLookup h.files p ∨
        ∃ k, fsLookup (h.after (.writeFile p b)).files p = some (.file (b.take k))) ∧
      ∀ q, q ≠ p → fsLookup (h.after (.writeFile p b)).files q = fsLookup h.files q) ∧
    (h.reply .close = .ioFail → (h.after .close).files = h.files)

/-- R131, R132, R133: valid paths, the parts of a path, and the descendant test. -/
def Obligations.PathsSplitAtSep : Prop :=
  (∀ q : Bytes, validPath q = true ↔
    ∃ segs : List Bytes, segs ≠ [] ∧ q = List.intercalate [Config.sep] segs ∧
      ∀ x ∈ segs, x ≠ [] ∧ Config.sep ∉ x ∧ x ≠ [0x2E#8] ∧ x ≠ [0x2E#8, 0x2E#8]) ∧
  (∀ q : Bytes, Config.sep ∉ lastSeg q ∧
    (Config.sep ∈ q → q = parent q ++ [Config.sep] ++ lastSeg q) ∧ (Config.sep ∉ q → lastSeg q = q ∧ parent q = [])) ∧
  (∀ q d : Bytes, descendant q d = true ↔ ∃ r : Bytes, r ≠ [] ∧ q = d ++ [Config.sep] ++ r)

/-- R147, R11: the order of names is that of unsigned bytes compared from the first, a proper prefix first; sorting makes
the order the host lists names in unobservable, and the sorted names ascend. -/
def Obligations.SortIgnoresListingOrder : Prop :=
  (∀ a b : Bytes, bytesLt a b = true ↔
    (∃ (x : Byte) (r : Bytes), b = a ++ x :: r) ∨
    ∃ (c ra rb : Bytes) (x y : Byte), a = c ++ x :: ra ∧ b = c ++ y :: rb ∧ x.toNat < y.toNat) ∧
  ∀ ns ns' : List Bytes, ns.Perm ns' → sortBytes ns = sortBytes ns' ∧ (sortBytes ns).Perm ns ∧
    (sortBytes ns).Pairwise (fun a b => bytesLt b a = false)
end

