-- ==== Sys2Proof/Laws/State.lean ====
section
/-! SUPPORT. What each register update does to each field of State: one lemma per field per update, true by unfolding. -/

namespace Sys2Proof.Machine

/-! ### setDout -/

@[simp] theorem State.setDout_status (v : Bytes) (s : State) : (s.setDout v).status = s.status := rfl
@[simp] theorem State.setDout_din (v : Bytes) (s : State) : (s.setDout v).din = s.din := rfl
@[simp] theorem State.setDout_dout (v : Bytes) (s : State) : (s.setDout v).dout = v := rfl
@[simp] theorem State.setDout_pos (v : Bytes) (s : State) : (s.setDout v).pos = s.pos := rfl
@[simp] theorem State.setDout_ft (v : Bytes) (s : State) : (s.setDout v).ft = s.ft := rfl
@[simp] theorem State.setDout_tree (v : Bytes) (s : State) : (s.setDout v).tree = s.tree := rfl
@[simp] theorem State.setDout_ct (v : Bytes) (s : State) : (s.setDout v).ct = s.ct := rfl
@[simp] theorem State.setDout_pk (v : Bytes) (s : State) : (s.setDout v).pk = s.pk := rfl
@[simp] theorem State.setDout_eff (v : Bytes) (s : State) : (s.setDout v).eff = s.eff := rfl
@[simp] theorem State.setDout_name (v : Bytes) (s : State) : (s.setDout v).name = s.name := rfl
@[simp] theorem State.setDout_kind (v : Bytes) (s : State) : (s.setDout v).kind = s.kind := rfl
@[simp] theorem State.setDout_pin (v : Bytes) (s : State) : (s.setDout v).pin = s.pin := rfl
@[simp] theorem State.setDout_pout (v : Bytes) (s : State) : (s.setDout v).pout = s.pout := rfl
@[simp] theorem State.setDout_pdst (v : Bytes) (s : State) : (s.setDout v).pdst = s.pdst := rfl
@[simp] theorem State.setDout_pvw (v : Bytes) (s : State) : (s.setDout v).pvw = s.pvw := rfl
@[simp] theorem State.setDout_params (v : Bytes) (s : State) : (s.setDout v).params = s.params := rfl
@[simp] theorem State.setDout_host (v : Bytes) (s : State) : (s.setDout v).host = s.host := rfl
@[simp] theorem State.setDout_tx (v : Bytes) (s : State) : (s.setDout v).tx = s.tx := rfl
@[simp] theorem State.setDout_readout (v : Bytes) (s : State) : (s.setDout v).readout = s.readout := rfl

/-! ### setPos -/

@[simp] theorem State.setPos_status (v : Nat) (s : State) : (s.setPos v).status = s.status := rfl
@[simp] theorem State.setPos_din (v : Nat) (s : State) : (s.setPos v).din = s.din := rfl
@[simp] theorem State.setPos_dout (v : Nat) (s : State) : (s.setPos v).dout = s.dout := rfl
@[simp] theorem State.setPos_pos (v : Nat) (s : State) : (s.setPos v).pos = v := rfl
@[simp] theorem State.setPos_ft (v : Nat) (s : State) : (s.setPos v).ft = s.ft := rfl
@[simp] theorem State.setPos_tree (v : Nat) (s : State) : (s.setPos v).tree = s.tree := rfl
@[simp] theorem State.setPos_ct (v : Nat) (s : State) : (s.setPos v).ct = s.ct := rfl
@[simp] theorem State.setPos_pk (v : Nat) (s : State) : (s.setPos v).pk = s.pk := rfl
@[simp] theorem State.setPos_eff (v : Nat) (s : State) : (s.setPos v).eff = s.eff := rfl
@[simp] theorem State.setPos_name (v : Nat) (s : State) : (s.setPos v).name = s.name := rfl
@[simp] theorem State.setPos_kind (v : Nat) (s : State) : (s.setPos v).kind = s.kind := rfl
@[simp] theorem State.setPos_pin (v : Nat) (s : State) : (s.setPos v).pin = s.pin := rfl
@[simp] theorem State.setPos_pout (v : Nat) (s : State) : (s.setPos v).pout = s.pout := rfl
@[simp] theorem State.setPos_pdst (v : Nat) (s : State) : (s.setPos v).pdst = s.pdst := rfl
@[simp] theorem State.setPos_pvw (v : Nat) (s : State) : (s.setPos v).pvw = s.pvw := rfl
@[simp] theorem State.setPos_params (v : Nat) (s : State) : (s.setPos v).params = s.params := rfl
@[simp] theorem State.setPos_host (v : Nat) (s : State) : (s.setPos v).host = s.host := rfl
@[simp] theorem State.setPos_tx (v : Nat) (s : State) : (s.setPos v).tx = s.tx := rfl
@[simp] theorem State.setPos_readout (v : Nat) (s : State) : (s.setPos v).readout = s.readout := rfl

/-! ### setFt -/

@[simp] theorem State.setFt_status (v : FreqTable) (s : State) : (s.setFt v).status = s.status := rfl
@[simp] theorem State.setFt_din (v : FreqTable) (s : State) : (s.setFt v).din = s.din := rfl
@[simp] theorem State.setFt_dout (v : FreqTable) (s : State) : (s.setFt v).dout = s.dout := rfl
@[simp] theorem State.setFt_pos (v : FreqTable) (s : State) : (s.setFt v).pos = s.pos := rfl
@[simp] theorem State.setFt_ft (v : FreqTable) (s : State) : (s.setFt v).ft = v := rfl
@[simp] theorem State.setFt_tree (v : FreqTable) (s : State) : (s.setFt v).tree = s.tree := rfl
@[simp] theorem State.setFt_ct (v : FreqTable) (s : State) : (s.setFt v).ct = s.ct := rfl
@[simp] theorem State.setFt_pk (v : FreqTable) (s : State) : (s.setFt v).pk = s.pk := rfl
@[simp] theorem State.setFt_eff (v : FreqTable) (s : State) : (s.setFt v).eff = s.eff := rfl
@[simp] theorem State.setFt_name (v : FreqTable) (s : State) : (s.setFt v).name = s.name := rfl
@[simp] theorem State.setFt_kind (v : FreqTable) (s : State) : (s.setFt v).kind = s.kind := rfl
@[simp] theorem State.setFt_pin (v : FreqTable) (s : State) : (s.setFt v).pin = s.pin := rfl
@[simp] theorem State.setFt_pout (v : FreqTable) (s : State) : (s.setFt v).pout = s.pout := rfl
@[simp] theorem State.setFt_pdst (v : FreqTable) (s : State) : (s.setFt v).pdst = s.pdst := rfl
@[simp] theorem State.setFt_pvw (v : FreqTable) (s : State) : (s.setFt v).pvw = s.pvw := rfl
@[simp] theorem State.setFt_params (v : FreqTable) (s : State) : (s.setFt v).params = s.params := rfl
@[simp] theorem State.setFt_host (v : FreqTable) (s : State) : (s.setFt v).host = s.host := rfl
@[simp] theorem State.setFt_tx (v : FreqTable) (s : State) : (s.setFt v).tx = s.tx := rfl
@[simp] theorem State.setFt_readout (v : FreqTable) (s : State) : (s.setFt v).readout = s.readout := rfl

/-! ### setTree -/

@[simp] theorem State.setTree_status (v : Tree) (s : State) : (s.setTree v).status = s.status := rfl
@[simp] theorem State.setTree_din (v : Tree) (s : State) : (s.setTree v).din = s.din := rfl
@[simp] theorem State.setTree_dout (v : Tree) (s : State) : (s.setTree v).dout = s.dout := rfl
@[simp] theorem State.setTree_pos (v : Tree) (s : State) : (s.setTree v).pos = s.pos := rfl
@[simp] theorem State.setTree_ft (v : Tree) (s : State) : (s.setTree v).ft = s.ft := rfl
@[simp] theorem State.setTree_tree (v : Tree) (s : State) : (s.setTree v).tree = v := rfl
@[simp] theorem State.setTree_ct (v : Tree) (s : State) : (s.setTree v).ct = s.ct := rfl
@[simp] theorem State.setTree_pk (v : Tree) (s : State) : (s.setTree v).pk = s.pk := rfl
@[simp] theorem State.setTree_eff (v : Tree) (s : State) : (s.setTree v).eff = s.eff := rfl
@[simp] theorem State.setTree_name (v : Tree) (s : State) : (s.setTree v).name = s.name := rfl
@[simp] theorem State.setTree_kind (v : Tree) (s : State) : (s.setTree v).kind = s.kind := rfl
@[simp] theorem State.setTree_pin (v : Tree) (s : State) : (s.setTree v).pin = s.pin := rfl
@[simp] theorem State.setTree_pout (v : Tree) (s : State) : (s.setTree v).pout = s.pout := rfl
@[simp] theorem State.setTree_pdst (v : Tree) (s : State) : (s.setTree v).pdst = s.pdst := rfl
@[simp] theorem State.setTree_pvw (v : Tree) (s : State) : (s.setTree v).pvw = s.pvw := rfl
@[simp] theorem State.setTree_params (v : Tree) (s : State) : (s.setTree v).params = s.params := rfl
@[simp] theorem State.setTree_host (v : Tree) (s : State) : (s.setTree v).host = s.host := rfl
@[simp] theorem State.setTree_tx (v : Tree) (s : State) : (s.setTree v).tx = s.tx := rfl
@[simp] theorem State.setTree_readout (v : Tree) (s : State) : (s.setTree v).readout = s.readout := rfl

/-! ### setCt -/

@[simp] theorem State.setCt_status (v : CodeTable) (s : State) : (s.setCt v).status = s.status := rfl
@[simp] theorem State.setCt_din (v : CodeTable) (s : State) : (s.setCt v).din = s.din := rfl
@[simp] theorem State.setCt_dout (v : CodeTable) (s : State) : (s.setCt v).dout = s.dout := rfl
@[simp] theorem State.setCt_pos (v : CodeTable) (s : State) : (s.setCt v).pos = s.pos := rfl
@[simp] theorem State.setCt_ft (v : CodeTable) (s : State) : (s.setCt v).ft = s.ft := rfl
@[simp] theorem State.setCt_tree (v : CodeTable) (s : State) : (s.setCt v).tree = s.tree := rfl
@[simp] theorem State.setCt_ct (v : CodeTable) (s : State) : (s.setCt v).ct = v := rfl
@[simp] theorem State.setCt_pk (v : CodeTable) (s : State) : (s.setCt v).pk = s.pk := rfl
@[simp] theorem State.setCt_eff (v : CodeTable) (s : State) : (s.setCt v).eff = s.eff := rfl
@[simp] theorem State.setCt_name (v : CodeTable) (s : State) : (s.setCt v).name = s.name := rfl
@[simp] theorem State.setCt_kind (v : CodeTable) (s : State) : (s.setCt v).kind = s.kind := rfl
@[simp] theorem State.setCt_pin (v : CodeTable) (s : State) : (s.setCt v).pin = s.pin := rfl
@[simp] theorem State.setCt_pout (v : CodeTable) (s : State) : (s.setCt v).pout = s.pout := rfl
@[simp] theorem State.setCt_pdst (v : CodeTable) (s : State) : (s.setCt v).pdst = s.pdst := rfl
@[simp] theorem State.setCt_pvw (v : CodeTable) (s : State) : (s.setCt v).pvw = s.pvw := rfl
@[simp] theorem State.setCt_params (v : CodeTable) (s : State) : (s.setCt v).params = s.params := rfl
@[simp] theorem State.setCt_host (v : CodeTable) (s : State) : (s.setCt v).host = s.host := rfl
@[simp] theorem State.setCt_tx (v : CodeTable) (s : State) : (s.setCt v).tx = s.tx := rfl
@[simp] theorem State.setCt_readout (v : CodeTable) (s : State) : (s.setCt v).readout = s.readout := rfl

/-! ### setPk -/

@[simp] theorem State.setPk_status (v : Bytes) (s : State) : (s.setPk v).status = s.status := rfl
@[simp] theorem State.setPk_din (v : Bytes) (s : State) : (s.setPk v).din = s.din := rfl
@[simp] theorem State.setPk_dout (v : Bytes) (s : State) : (s.setPk v).dout = s.dout := rfl
@[simp] theorem State.setPk_pos (v : Bytes) (s : State) : (s.setPk v).pos = s.pos := rfl
@[simp] theorem State.setPk_ft (v : Bytes) (s : State) : (s.setPk v).ft = s.ft := rfl
@[simp] theorem State.setPk_tree (v : Bytes) (s : State) : (s.setPk v).tree = s.tree := rfl
@[simp] theorem State.setPk_ct (v : Bytes) (s : State) : (s.setPk v).ct = s.ct := rfl
@[simp] theorem State.setPk_pk (v : Bytes) (s : State) : (s.setPk v).pk = v := rfl
@[simp] theorem State.setPk_eff (v : Bytes) (s : State) : (s.setPk v).eff = s.eff := rfl
@[simp] theorem State.setPk_name (v : Bytes) (s : State) : (s.setPk v).name = s.name := rfl
@[simp] theorem State.setPk_kind (v : Bytes) (s : State) : (s.setPk v).kind = s.kind := rfl
@[simp] theorem State.setPk_pin (v : Bytes) (s : State) : (s.setPk v).pin = s.pin := rfl
@[simp] theorem State.setPk_pout (v : Bytes) (s : State) : (s.setPk v).pout = s.pout := rfl
@[simp] theorem State.setPk_pdst (v : Bytes) (s : State) : (s.setPk v).pdst = s.pdst := rfl
@[simp] theorem State.setPk_pvw (v : Bytes) (s : State) : (s.setPk v).pvw = s.pvw := rfl
@[simp] theorem State.setPk_params (v : Bytes) (s : State) : (s.setPk v).params = s.params := rfl
@[simp] theorem State.setPk_host (v : Bytes) (s : State) : (s.setPk v).host = s.host := rfl
@[simp] theorem State.setPk_tx (v : Bytes) (s : State) : (s.setPk v).tx = s.tx := rfl
@[simp] theorem State.setPk_readout (v : Bytes) (s : State) : (s.setPk v).readout = s.readout := rfl

/-! ### setEff -/

@[simp] theorem State.setEff_status (v : Byte) (s : State) : (s.setEff v).status = s.status := rfl
@[simp] theorem State.setEff_din (v : Byte) (s : State) : (s.setEff v).din = s.din := rfl
@[simp] theorem State.setEff_dout (v : Byte) (s : State) : (s.setEff v).dout = s.dout := rfl
@[simp] theorem State.setEff_pos (v : Byte) (s : State) : (s.setEff v).pos = s.pos := rfl
@[simp] theorem State.setEff_ft (v : Byte) (s : State) : (s.setEff v).ft = s.ft := rfl
@[simp] theorem State.setEff_tree (v : Byte) (s : State) : (s.setEff v).tree = s.tree := rfl
@[simp] theorem State.setEff_ct (v : Byte) (s : State) : (s.setEff v).ct = s.ct := rfl
@[simp] theorem State.setEff_pk (v : Byte) (s : State) : (s.setEff v).pk = s.pk := rfl
@[simp] theorem State.setEff_eff (v : Byte) (s : State) : (s.setEff v).eff = v := rfl
@[simp] theorem State.setEff_name (v : Byte) (s : State) : (s.setEff v).name = s.name := rfl
@[simp] theorem State.setEff_kind (v : Byte) (s : State) : (s.setEff v).kind = s.kind := rfl
@[simp] theorem State.setEff_pin (v : Byte) (s : State) : (s.setEff v).pin = s.pin := rfl
@[simp] theorem State.setEff_pout (v : Byte) (s : State) : (s.setEff v).pout = s.pout := rfl
@[simp] theorem State.setEff_pdst (v : Byte) (s : State) : (s.setEff v).pdst = s.pdst := rfl
@[simp] theorem State.setEff_pvw (v : Byte) (s : State) : (s.setEff v).pvw = s.pvw := rfl
@[simp] theorem State.setEff_params (v : Byte) (s : State) : (s.setEff v).params = s.params := rfl
@[simp] theorem State.setEff_host (v : Byte) (s : State) : (s.setEff v).host = s.host := rfl
@[simp] theorem State.setEff_tx (v : Byte) (s : State) : (s.setEff v).tx = s.tx := rfl
@[simp] theorem State.setEff_readout (v : Byte) (s : State) : (s.setEff v).readout = s.readout := rfl

/-! ### setName -/

@[simp] theorem State.setName_status (v : Bytes) (s : State) : (s.setName v).status = s.status := rfl
@[simp] theorem State.setName_din (v : Bytes) (s : State) : (s.setName v).din = s.din := rfl
@[simp] theorem State.setName_dout (v : Bytes) (s : State) : (s.setName v).dout = s.dout := rfl
@[simp] theorem State.setName_pos (v : Bytes) (s : State) : (s.setName v).pos = s.pos := rfl
@[simp] theorem State.setName_ft (v : Bytes) (s : State) : (s.setName v).ft = s.ft := rfl
@[simp] theorem State.setName_tree (v : Bytes) (s : State) : (s.setName v).tree = s.tree := rfl
@[simp] theorem State.setName_ct (v : Bytes) (s : State) : (s.setName v).ct = s.ct := rfl
@[simp] theorem State.setName_pk (v : Bytes) (s : State) : (s.setName v).pk = s.pk := rfl
@[simp] theorem State.setName_eff (v : Bytes) (s : State) : (s.setName v).eff = s.eff := rfl
@[simp] theorem State.setName_name (v : Bytes) (s : State) : (s.setName v).name = v := rfl
@[simp] theorem State.setName_kind (v : Bytes) (s : State) : (s.setName v).kind = s.kind := rfl
@[simp] theorem State.setName_pin (v : Bytes) (s : State) : (s.setName v).pin = s.pin := rfl
@[simp] theorem State.setName_pout (v : Bytes) (s : State) : (s.setName v).pout = s.pout := rfl
@[simp] theorem State.setName_pdst (v : Bytes) (s : State) : (s.setName v).pdst = s.pdst := rfl
@[simp] theorem State.setName_pvw (v : Bytes) (s : State) : (s.setName v).pvw = s.pvw := rfl
@[simp] theorem State.setName_params (v : Bytes) (s : State) : (s.setName v).params = s.params := rfl
@[simp] theorem State.setName_host (v : Bytes) (s : State) : (s.setName v).host = s.host := rfl
@[simp] theorem State.setName_tx (v : Bytes) (s : State) : (s.setName v).tx = s.tx := rfl
@[simp] theorem State.setName_readout (v : Bytes) (s : State) : (s.setName v).readout = s.readout := rfl

/-! ### setKind -/

@[simp] theorem State.setKind_status (v : BitVec 2) (s : State) : (s.setKind v).status = s.status := rfl
@[simp] theorem State.setKind_din (v : BitVec 2) (s : State) : (s.setKind v).din = s.din := rfl
@[simp] theorem State.setKind_dout (v : BitVec 2) (s : State) : (s.setKind v).dout = s.dout := rfl
@[simp] theorem State.setKind_pos (v : BitVec 2) (s : State) : (s.setKind v).pos = s.pos := rfl
@[simp] theorem State.setKind_ft (v : BitVec 2) (s : State) : (s.setKind v).ft = s.ft := rfl
@[simp] theorem State.setKind_tree (v : BitVec 2) (s : State) : (s.setKind v).tree = s.tree := rfl
@[simp] theorem State.setKind_ct (v : BitVec 2) (s : State) : (s.setKind v).ct = s.ct := rfl
@[simp] theorem State.setKind_pk (v : BitVec 2) (s : State) : (s.setKind v).pk = s.pk := rfl
@[simp] theorem State.setKind_eff (v : BitVec 2) (s : State) : (s.setKind v).eff = s.eff := rfl
@[simp] theorem State.setKind_name (v : BitVec 2) (s : State) : (s.setKind v).name = s.name := rfl
@[simp] theorem State.setKind_kind (v : BitVec 2) (s : State) : (s.setKind v).kind = v := rfl
@[simp] theorem State.setKind_pin (v : BitVec 2) (s : State) : (s.setKind v).pin = s.pin := rfl
@[simp] theorem State.setKind_pout (v : BitVec 2) (s : State) : (s.setKind v).pout = s.pout := rfl
@[simp] theorem State.setKind_pdst (v : BitVec 2) (s : State) : (s.setKind v).pdst = s.pdst := rfl
@[simp] theorem State.setKind_pvw (v : BitVec 2) (s : State) : (s.setKind v).pvw = s.pvw := rfl
@[simp] theorem State.setKind_params (v : BitVec 2) (s : State) : (s.setKind v).params = s.params := rfl
@[simp] theorem State.setKind_host (v : BitVec 2) (s : State) : (s.setKind v).host = s.host := rfl
@[simp] theorem State.setKind_tx (v : BitVec 2) (s : State) : (s.setKind v).tx = s.tx := rfl
@[simp] theorem State.setKind_readout (v : BitVec 2) (s : State) : (s.setKind v).readout = s.readout := rfl

/-! ### setPvw -/

@[simp] theorem State.setPvw_status (v : List PreviewItem) (s : State) : (s.setPvw v).status = s.status := rfl
@[simp] theorem State.setPvw_din (v : List PreviewItem) (s : State) : (s.setPvw v).din = s.din := rfl
@[simp] theorem State.setPvw_dout (v : List PreviewItem) (s : State) : (s.setPvw v).dout = s.dout := rfl
@[simp] theorem State.setPvw_pos (v : List PreviewItem) (s : State) : (s.setPvw v).pos = s.pos := rfl
@[simp] theorem State.setPvw_ft (v : List PreviewItem) (s : State) : (s.setPvw v).ft = s.ft := rfl
@[simp] theorem State.setPvw_tree (v : List PreviewItem) (s : State) : (s.setPvw v).tree = s.tree := rfl
@[simp] theorem State.setPvw_ct (v : List PreviewItem) (s : State) : (s.setPvw v).ct = s.ct := rfl
@[simp] theorem State.setPvw_pk (v : List PreviewItem) (s : State) : (s.setPvw v).pk = s.pk := rfl
@[simp] theorem State.setPvw_eff (v : List PreviewItem) (s : State) : (s.setPvw v).eff = s.eff := rfl
@[simp] theorem State.setPvw_name (v : List PreviewItem) (s : State) : (s.setPvw v).name = s.name := rfl
@[simp] theorem State.setPvw_kind (v : List PreviewItem) (s : State) : (s.setPvw v).kind = s.kind := rfl
@[simp] theorem State.setPvw_pin (v : List PreviewItem) (s : State) : (s.setPvw v).pin = s.pin := rfl
@[simp] theorem State.setPvw_pout (v : List PreviewItem) (s : State) : (s.setPvw v).pout = s.pout := rfl
@[simp] theorem State.setPvw_pdst (v : List PreviewItem) (s : State) : (s.setPvw v).pdst = s.pdst := rfl
@[simp] theorem State.setPvw_pvw (v : List PreviewItem) (s : State) : (s.setPvw v).pvw = v := rfl
@[simp] theorem State.setPvw_params (v : List PreviewItem) (s : State) : (s.setPvw v).params = s.params := rfl
@[simp] theorem State.setPvw_host (v : List PreviewItem) (s : State) : (s.setPvw v).host = s.host := rfl
@[simp] theorem State.setPvw_tx (v : List PreviewItem) (s : State) : (s.setPvw v).tx = s.tx := rfl
@[simp] theorem State.setPvw_readout (v : List PreviewItem) (s : State) : (s.setPvw v).readout = s.readout := rfl

/-! ### setHost -/

@[simp] theorem State.setHost_status (v : HostSide) (s : State) : (s.setHost v).status = s.status := rfl
@[simp] theorem State.setHost_din (v : HostSide) (s : State) : (s.setHost v).din = s.din := rfl
@[simp] theorem State.setHost_dout (v : HostSide) (s : State) : (s.setHost v).dout = s.dout := rfl
@[simp] theorem State.setHost_pos (v : HostSide) (s : State) : (s.setHost v).pos = s.pos := rfl
@[simp] theorem State.setHost_ft (v : HostSide) (s : State) : (s.setHost v).ft = s.ft := rfl
@[simp] theorem State.setHost_tree (v : HostSide) (s : State) : (s.setHost v).tree = s.tree := rfl
@[simp] theorem State.setHost_ct (v : HostSide) (s : State) : (s.setHost v).ct = s.ct := rfl
@[simp] theorem State.setHost_pk (v : HostSide) (s : State) : (s.setHost v).pk = s.pk := rfl
@[simp] theorem State.setHost_eff (v : HostSide) (s : State) : (s.setHost v).eff = s.eff := rfl
@[simp] theorem State.setHost_name (v : HostSide) (s : State) : (s.setHost v).name = s.name := rfl
@[simp] theorem State.setHost_kind (v : HostSide) (s : State) : (s.setHost v).kind = s.kind := rfl
@[simp] theorem State.setHost_pin (v : HostSide) (s : State) : (s.setHost v).pin = s.pin := rfl
@[simp] theorem State.setHost_pout (v : HostSide) (s : State) : (s.setHost v).pout = s.pout := rfl
@[simp] theorem State.setHost_pdst (v : HostSide) (s : State) : (s.setHost v).pdst = s.pdst := rfl
@[simp] theorem State.setHost_pvw (v : HostSide) (s : State) : (s.setHost v).pvw = s.pvw := rfl
@[simp] theorem State.setHost_params (v : HostSide) (s : State) : (s.setHost v).params = s.params := rfl
@[simp] theorem State.setHost_host (v : HostSide) (s : State) : (s.setHost v).host = v := rfl
@[simp] theorem State.setHost_tx (v : HostSide) (s : State) : (s.setHost v).tx = s.tx := rfl
@[simp] theorem State.setHost_readout (v : HostSide) (s : State) : (s.setHost v).readout = s.readout := rfl

/-! ### setStatus, and the two ends of a command made of it -/

@[simp] theorem State.setStatus_status (op : Byte) (c : BitVec 4) (s : State) : (s.setStatus op c).status = statusWord op c := rfl
@[simp] theorem State.setStatus_din (op : Byte) (c : BitVec 4) (s : State) : (s.setStatus op c).din = s.din := rfl
@[simp] theorem State.setStatus_dout (op : Byte) (c : BitVec 4) (s : State) : (s.setStatus op c).dout = s.dout := rfl
@[simp] theorem State.setStatus_pos (op : Byte) (c : BitVec 4) (s : State) : (s.setStatus op c).pos = s.pos := rfl
@[simp] theorem State.setStatus_ft (op : Byte) (c : BitVec 4) (s : State) : (s.setStatus op c).ft = s.ft := rfl
@[simp] theorem State.setStatus_tree (op : Byte) (c : BitVec 4) (s : State) : (s.setStatus op c).tree = s.tree := rfl
@[simp] theorem State.setStatus_ct (op : Byte) (c : BitVec 4) (s : State) : (s.setStatus op c).ct = s.ct := rfl
@[simp] theorem State.setStatus_pk (op : Byte) (c : BitVec 4) (s : State) : (s.setStatus op c).pk = s.pk := rfl
@[simp] theorem State.setStatus_eff (op : Byte) (c : BitVec 4) (s : State) : (s.setStatus op c).eff = s.eff := rfl
@[simp] theorem State.setStatus_name (op : Byte) (c : BitVec 4) (s : State) : (s.setStatus op c).name = s.name := rfl
@[simp] theorem State.setStatus_kind (op : Byte) (c : BitVec 4) (s : State) : (s.setStatus op c).kind = s.kind := rfl
@[simp] theorem State.setStatus_pin (op : Byte) (c : BitVec 4) (s : State) : (s.setStatus op c).pin = s.pin := rfl
@[simp] theorem State.setStatus_pout (op : Byte) (c : BitVec 4) (s : State) : (s.setStatus op c).pout = s.pout := rfl
@[simp] theorem State.setStatus_pdst (op : Byte) (c : BitVec 4) (s : State) : (s.setStatus op c).pdst = s.pdst := rfl
@[simp] theorem State.setStatus_pvw (op : Byte) (c : BitVec 4) (s : State) : (s.setStatus op c).pvw = s.pvw := rfl
@[simp] theorem State.setStatus_params (op : Byte) (c : BitVec 4) (s : State) : (s.setStatus op c).params = s.params := rfl
@[simp] theorem State.setStatus_host (op : Byte) (c : BitVec 4) (s : State) : (s.setStatus op c).host = s.host := rfl
@[simp] theorem State.setStatus_tx (op : Byte) (c : BitVec 4) (s : State) : (s.setStatus op c).tx = s.tx := rfl
@[simp] theorem State.setStatus_readout (op : Byte) (c : BitVec 4) (s : State) : (s.setStatus op c).readout = s.readout := rfl

@[simp] theorem State.abort_status (op : Byte) (e : Err) (s : State) : (s.abort op e).status = statusWord op (errCode e) := rfl
@[simp] theorem State.abort_din (op : Byte) (e : Err) (s : State) : (s.abort op e).din = s.din := rfl
@[simp] theorem State.abort_dout (op : Byte) (e : Err) (s : State) : (s.abort op e).dout = s.dout := rfl
@[simp] theorem State.abort_pos (op : Byte) (e : Err) (s : State) : (s.abort op e).pos = s.pos := rfl
@[simp] theorem State.abort_ft (op : Byte) (e : Err) (s : State) : (s.abort op e).ft = s.ft := rfl
@[simp] theorem State.abort_tree (op : Byte) (e : Err) (s : State) : (s.abort op e).tree = s.tree := rfl
@[simp] theorem State.abort_ct (op : Byte) (e : Err) (s : State) : (s.abort op e).ct = s.ct := rfl
@[simp] theorem State.abort_pk (op : Byte) (e : Err) (s : State) : (s.abort op e).pk = s.pk := rfl
@[simp] theorem State.abort_eff (op : Byte) (e : Err) (s : State) : (s.abort op e).eff = s.eff := rfl
@[simp] theorem State.abort_name (op : Byte) (e : Err) (s : State) : (s.abort op e).name = s.name := rfl
@[simp] theorem State.abort_kind (op : Byte) (e : Err) (s : State) : (s.abort op e).kind = s.kind := rfl
@[simp] theorem State.abort_pin (op : Byte) (e : Err) (s : State) : (s.abort op e).pin = s.pin := rfl
@[simp] theorem State.abort_pout (op : Byte) (e : Err) (s : State) : (s.abort op e).pout = s.pout := rfl
@[simp] theorem State.abort_pdst (op : Byte) (e : Err) (s : State) : (s.abort op e).pdst = s.pdst := rfl
@[simp] theorem State.abort_pvw (op : Byte) (e : Err) (s : State) : (s.abort op e).pvw = s.pvw := rfl
@[simp] theorem State.abort_params (op : Byte) (e : Err) (s : State) : (s.abort op e).params = s.params := rfl
@[simp] theorem State.abort_host (op : Byte) (e : Err) (s : State) : (s.abort op e).host = s.host := rfl
@[simp] theorem State.abort_tx (op : Byte) (e : Err) (s : State) : (s.abort op e).tx = s.tx := rfl
@[simp] theorem State.abort_readout (op : Byte) (e : Err) (s : State) : (s.abort op e).readout = s.readout := rfl

@[simp] theorem State.succeed_status (op : Byte) (s : State) : (s.succeed op).status = statusWord op 0 := rfl
@[simp] theorem State.succeed_din (op : Byte) (s : State) : (s.succeed op).din = s.din := rfl
@[simp] theorem State.succeed_dout (op : Byte) (s : State) : (s.succeed op).dout = s.dout := rfl
@[simp] theorem State.succeed_pos (op : Byte) (s : State) : (s.succeed op).pos = s.pos := rfl
@[simp] theorem State.succeed_ft (op : Byte) (s : State) : (s.succeed op).ft = s.ft := rfl
@[simp] theorem State.succeed_tree (op : Byte) (s : State) : (s.succeed op).tree = s.tree := rfl
@[simp] theorem State.succeed_ct (op : Byte) (s : State) : (s.succeed op).ct = s.ct := rfl
@[simp] theorem State.succeed_pk (op : Byte) (s : State) : (s.succeed op).pk = s.pk := rfl
@[simp] theorem State.succeed_eff (op : Byte) (s : State) : (s.succeed op).eff = s.eff := rfl
@[simp] theorem State.succeed_name (op : Byte) (s : State) : (s.succeed op).name = s.name := rfl
@[simp] theorem State.succeed_kind (op : Byte) (s : State) : (s.succeed op).kind = s.kind := rfl
@[simp] theorem State.succeed_pin (op : Byte) (s : State) : (s.succeed op).pin = s.pin := rfl
@[simp] theorem State.succeed_pout (op : Byte) (s : State) : (s.succeed op).pout = s.pout := rfl
@[simp] theorem State.succeed_pdst (op : Byte) (s : State) : (s.succeed op).pdst = s.pdst := rfl
@[simp] theorem State.succeed_pvw (op : Byte) (s : State) : (s.succeed op).pvw = s.pvw := rfl
@[simp] theorem State.succeed_params (op : Byte) (s : State) : (s.succeed op).params = s.params := rfl
@[simp] theorem State.succeed_host (op : Byte) (s : State) : (s.succeed op).host = s.host := rfl
@[simp] theorem State.succeed_tx (op : Byte) (s : State) : (s.succeed op).tx = s.tx := rfl
@[simp] theorem State.succeed_readout (op : Byte) (s : State) : (s.succeed op).readout = s.readout := rfl

/-! ### the transaction queue -/

@[simp] theorem State.taken_status (s : State) : s.taken.status = s.status := rfl
@[simp] theorem State.taken_din (s : State) : s.taken.din = s.din := rfl
@[simp] theorem State.taken_dout (s : State) : s.taken.dout = s.dout := rfl
@[simp] theorem State.taken_pos (s : State) : s.taken.pos = s.pos := rfl
@[simp] theorem State.taken_ft (s : State) : s.taken.ft = s.ft := rfl
@[simp] theorem State.taken_tree (s : State) : s.taken.tree = s.tree := rfl
@[simp] theorem State.taken_ct (s : State) : s.taken.ct = s.ct := rfl
@[simp] theorem State.taken_pk (s : State) : s.taken.pk = s.pk := rfl
@[simp] theorem State.taken_eff (s : State) : s.taken.eff = s.eff := rfl
@[simp] theorem State.taken_name (s : State) : s.taken.name = s.name := rfl
@[simp] theorem State.taken_kind (s : State) : s.taken.kind = s.kind := rfl
@[simp] theorem State.taken_pin (s : State) : s.taken.pin = s.pin := rfl
@[simp] theorem State.taken_pout (s : State) : s.taken.pout = s.pout := rfl
@[simp] theorem State.taken_pdst (s : State) : s.taken.pdst = s.pdst := rfl
@[simp] theorem State.taken_pvw (s : State) : s.taken.pvw = s.pvw := rfl
@[simp] theorem State.taken_params (s : State) : s.taken.params = s.params := rfl
@[simp] theorem State.taken_host (s : State) : s.taken.host = s.host := rfl
@[simp] theorem State.taken_tx (s : State) : s.taken.tx = s.tx.tail := rfl
@[simp] theorem State.taken_readout (s : State) : s.taken.readout = s.readout := rfl

@[simp] theorem State.withCommand_status (w : Word) (s : State) : (s.withCommand w).status = s.status := rfl
@[simp] theorem State.withCommand_din (w : Word) (s : State) : (s.withCommand w).din = s.din := rfl
@[simp] theorem State.withCommand_dout (w : Word) (s : State) : (s.withCommand w).dout = s.dout := rfl
@[simp] theorem State.withCommand_pos (w : Word) (s : State) : (s.withCommand w).pos = s.pos := rfl
@[simp] theorem State.withCommand_ft (w : Word) (s : State) : (s.withCommand w).ft = s.ft := rfl
@[simp] theorem State.withCommand_tree (w : Word) (s : State) : (s.withCommand w).tree = s.tree := rfl
@[simp] theorem State.withCommand_ct (w : Word) (s : State) : (s.withCommand w).ct = s.ct := rfl
@[simp] theorem State.withCommand_pk (w : Word) (s : State) : (s.withCommand w).pk = s.pk := rfl
@[simp] theorem State.withCommand_eff (w : Word) (s : State) : (s.withCommand w).eff = s.eff := rfl
@[simp] theorem State.withCommand_name (w : Word) (s : State) : (s.withCommand w).name = s.name := rfl
@[simp] theorem State.withCommand_kind (w : Word) (s : State) : (s.withCommand w).kind = s.kind := rfl
@[simp] theorem State.withCommand_pin (w : Word) (s : State) : (s.withCommand w).pin = s.pin := rfl
@[simp] theorem State.withCommand_pout (w : Word) (s : State) : (s.withCommand w).pout = s.pout := rfl
@[simp] theorem State.withCommand_pdst (w : Word) (s : State) : (s.withCommand w).pdst = s.pdst := rfl
@[simp] theorem State.withCommand_pvw (w : Word) (s : State) : (s.withCommand w).pvw = s.pvw := rfl
@[simp] theorem State.withCommand_params (w : Word) (s : State) : (s.withCommand w).params = s.params := rfl
@[simp] theorem State.withCommand_host (w : Word) (s : State) : (s.withCommand w).host = s.host := rfl
@[simp] theorem State.withCommand_tx (w : Word) (s : State) : (s.withCommand w).tx = .write 0 (.word w) :: s.tx := rfl
@[simp] theorem State.withCommand_readout (w : Word) (s : State) : (s.withCommand w).readout = s.readout := rfl

/-! ### RESET (10_state.md R39) -/

@[simp] theorem State.resetWith_status (p : Params) (h : HostSide) (t : List HostTx) (r : Option RegValue) : (State.resetWith p h t r).status = 0 := rfl
@[simp] theorem State.resetWith_din (p : Params) (h : HostSide) (t : List HostTx) (r : Option RegValue) : (State.resetWith p h t r).din = [] := rfl
@[simp] theorem State.resetWith_dout (p : Params) (h : HostSide) (t : List HostTx) (r : Option RegValue) : (State.resetWith p h t r).dout = [] := rfl
@[simp] theorem State.resetWith_pos (p : Params) (h : HostSide) (t : List HostTx) (r : Option RegValue) : (State.resetWith p h t r).pos = 0 := rfl
@[simp] theorem State.resetWith_ft (p : Params) (h : HostSide) (t : List HostTx) (r : Option RegValue) : (State.resetWith p h t r).ft = [] := rfl
@[simp] theorem State.resetWith_tree (p : Params) (h : HostSide) (t : List HostTx) (r : Option RegValue) : (State.resetWith p h t r).tree = .absent := rfl
@[simp] theorem State.resetWith_ct (p : Params) (h : HostSide) (t : List HostTx) (r : Option RegValue) : (State.resetWith p h t r).ct = [] := rfl
@[simp] theorem State.resetWith_pk (p : Params) (h : HostSide) (t : List HostTx) (r : Option RegValue) : (State.resetWith p h t r).pk = [] := rfl
@[simp] theorem State.resetWith_eff (p : Params) (h : HostSide) (t : List HostTx) (r : Option RegValue) : (State.resetWith p h t r).eff = 8 := rfl
@[simp] theorem State.resetWith_name (p : Params) (h : HostSide) (t : List HostTx) (r : Option RegValue) : (State.resetWith p h t r).name = [] := rfl
@[simp] theorem State.resetWith_kind (p : Params) (h : HostSide) (t : List HostTx) (r : Option RegValue) : (State.resetWith p h t r).kind = 0 := rfl
@[simp] theorem State.resetWith_pin (p : Params) (h : HostSide) (t : List HostTx) (r : Option RegValue) : (State.resetWith p h t r).pin = [] := rfl
@[simp] theorem State.resetWith_pout (p : Params) (h : HostSide) (t : List HostTx) (r : Option RegValue) : (State.resetWith p h t r).pout = [] := rfl
@[simp] theorem State.resetWith_pdst (p : Params) (h : HostSide) (t : List HostTx) (r : Option RegValue) : (State.resetWith p h t r).pdst = [] := rfl
@[simp] theorem State.resetWith_pvw (p : Params) (h : HostSide) (t : List HostTx) (r : Option RegValue) : (State.resetWith p h t r).pvw = [] := rfl
@[simp] theorem State.resetWith_params (p : Params) (h : HostSide) (t : List HostTx) (r : Option RegValue) : (State.resetWith p h t r).params = p := rfl
@[simp] theorem State.resetWith_host (p : Params) (h : HostSide) (t : List HostTx) (r : Option RegValue) : (State.resetWith p h t r).host = h := rfl
@[simp] theorem State.resetWith_tx (p : Params) (h : HostSide) (t : List HostTx) (r : Option RegValue) : (State.resetWith p h t r).tx = t := rfl
@[simp] theorem State.resetWith_readout (p : Params) (h : HostSide) (t : List HostTx) (r : Option RegValue) : (State.resetWith p h t r).readout = r := rfl

end Sys2Proof.Machine
end

