-- ==== Sys2Proof/Laws/Ops.lean ====
section
/-! SUPPORT. One lemma per shared operation of Machine/Ops.lean and Machine/HostFs.lean, saying all it can do. -/

namespace Sys2Proof.Machine

/-! ### Checks and ends of a command -/

@[simp] theorem require_ok_iff (c : Bool) (e : Err) (u : Unit) : require c e = .ok u ↔ c = true := by
  cases c <;> simp [require]

@[simp] theorem require_error_iff (c : Bool) (e e' : Err) : require c e = .error e' ↔ c = false ∧ e = e' := by
  cases c <;> simp [require]

theorem State.finish_ok (op : Byte) (t s : State) : s.finish op (.ok t) = t.succeed op := rfl

theorem State.finish_error (op : Byte) (e : Err) (s : State) : s.finish op (.error e) = s.abort op e := rfl

/-- A command ends in success with the registers computed, or with an error and its registers as before (R169). -/
theorem State.finish_cases (op : Byte) (r : Except Err State) (s : State) :
    (∃ t, r = .ok t ∧ s.finish op r = t.succeed op) ∨ (∃ e, r = .error e ∧ s.finish op r = s.abort op e) := by
  cases r with
  | ok t => exact .inl ⟨t, rfl, rfl⟩
  | error e => exact .inr ⟨e, rfl, rfl⟩

/-- Appending to DOUT: either it fits and DOUT grows, or CapacityExceeded (R32). -/
theorem State.appendDout_eq (o : Bytes) (s : State) :
    s.appendDout o =
      if s.dout.length + o.length ≤ s.cap then .ok (s.setDout (s.dout ++ o)) else .error .capacityExceeded := by
  unfold State.appendDout
  split <;> split <;> first | rfl | omega

theorem State.appendDout_ok {o : Bytes} {s t : State} (h : s.appendDout o = .ok t) :
    s.dout.length + o.length ≤ s.cap ∧ t = s.setDout (s.dout ++ o) := by
  rw [State.appendDout_eq] at h
  split at h
  · exact ⟨‹_›, by cases h; rfl⟩
  · cases h

/-! ### STATUS (10_state.md R24) -/

/-- STATUS bit by bit (R24). -/
theorem statusWord_bit (op : Byte) (c : BitVec 4) (i : Nat) :
    (statusWord op c).getLsbD i =
      if i < 4 then c.getLsbD i else if i < 8 then false else op.getLsbD (i - 8) := by
  show BitVec.getLsbD (w := 16 + 8 + 4 + 4) ((0 : BitVec 16) ++ op ++ (0 : BitVec 4) ++ c) i = _
  rw [BitVec.getLsbD_append, BitVec.getLsbD_append, BitVec.getLsbD_append]
  by_cases h4 : i < 4
  · simp [h4]
  · by_cases h8 : i < 8
    · have : i - 4 < 4 := by omega
      simp [h4, h8, this]
    · have h1 : ¬ i - 4 < 4 := by omega
      have h2 : i - 4 - 4 = i - 8 := by omega
      by_cases h16 : i - 8 < 8
      · simp [h4, h8, h1, h2, h16]
      · have h3 : op.getLsbD (i - 8) = false := BitVec.getLsbD_of_ge _ _ (by omega)
        simp [h4, h8, h1, h2, h16, h3]

@[simp] theorem statusWord_err (op : Byte) (c : BitVec 4) : (statusWord op c).extractLsb' 0 4 = c := by
  apply BitVec.eq_of_getLsbD_eq
  intro i hi
  simp only [BitVec.getLsbD_extractLsb', statusWord_bit]
  simp [hi]

@[simp] theorem statusWord_lastOp (op : Byte) (c : BitVec 4) : (statusWord op c).extractLsb' 8 8 = op := by
  apply BitVec.eq_of_getLsbD_eq
  intro i hi
  simp only [BitVec.getLsbD_extractLsb', statusWord_bit]
  have h1 : ¬ 8 + i < 4 := by omega
  simp [hi, h1]

theorem statusWord_reserved (op : Byte) (c : BitVec 4) :
    (statusWord op c).extractLsb' 16 16 ++ (statusWord op c).extractLsb' 4 4 = (0 : BitVec 20) := by
  have h1 : (statusWord op c).extractLsb' 16 16 = 0 := by
    apply BitVec.eq_of_getLsbD_eq
    intro i hi
    simp only [BitVec.getLsbD_extractLsb', statusWord_bit]
    have h1 : ¬ 16 + i < 4 := by omega
    have h2 : ¬ 16 + i < 8 := by omega
    have h3 : op.getLsbD (16 + i - 8) = false := BitVec.getLsbD_of_ge _ _ (by omega)
    simp [h1, h2, h3]
  have h2 : (statusWord op c).extractLsb' 4 4 = 0 := by
    apply BitVec.eq_of_getLsbD_eq
    intro i hi
    simp only [BitVec.getLsbD_extractLsb', statusWord_bit]
    have h1 : ¬ 4 + i < 4 := by omega
    have h2 : 4 + i < 8 := by omega
    simp [h1, h2]
  rw [h1, h2]
  rfl

@[simp] theorem State.err_setStatus (op : Byte) (c : BitVec 4) (s : State) : (s.setStatus op c).err = c :=
  statusWord_err op c

@[simp] theorem State.lastOp_setStatus (op : Byte) (c : BitVec 4) (s : State) : (s.setStatus op c).lastOp = op :=
  statusWord_lastOp op c

@[simp] theorem State.err_succeed (op : Byte) (s : State) : (s.succeed op).err = 0 := statusWord_err op 0

@[simp] theorem State.err_abort (op : Byte) (e : Err) (s : State) : (s.abort op e).err = errCode e :=
  statusWord_err op _

/-- Every error code is 1 to 8 (R166). -/
theorem errCode_range (e : Err) : 1 ≤ (errCode e).toNat ∧ (errCode e).toNat ≤ 8 := by
  cases e <;> decide

/-! ### Readers (20_memory.md R44 to R46) -/

theorem rdBytes_ok_iff (n : Nat) (s : Bytes) (p : Nat) (v : Bytes) (p' : Nat) :
    rdBytes n s p = .ok (v, p') ↔ p + n ≤ s.length ∧ v = (s.drop p).take n ∧ p' = p + n := by
  unfold rdBytes
  split
  · simp; omega
  · simp only [Except.ok.injEq, Prod.mk.injEq]
    constructor
    · rintro ⟨rfl, rfl⟩; exact ⟨by omega, rfl, rfl⟩
    · rintro ⟨-, rfl, rfl⟩; exact ⟨rfl, rfl⟩

theorem rdBytes_error_iff (n : Nat) (s : Bytes) (p : Nat) (e : Err) :
    rdBytes n s p = .error e ↔ s.length < p + n ∧ e = .truncatedStream := by
  unfold rdBytes
  split
  · simp only [Except.error.injEq]; constructor
    · rintro rfl; exact ⟨‹_›, rfl⟩
    · rintro ⟨-, rfl⟩; rfl
  · constructor
    · intro h; cases h
    · rintro ⟨h, -⟩; omega

theorem rdUInt_eq (n : Nat) (s : Bytes) (p : Nat) :
    rdUInt n s p =
      if p + n ≤ s.length then .ok (beNat ((s.drop p).take n), p + n) else .error .truncatedStream := by
  unfold rdUInt rdBytes
  split <;> split <;> first | rfl | omega

theorem rdUInt_ok_iff (n : Nat) (s : Bytes) (p v p' : Nat) :
    rdUInt n s p = .ok (v, p') ↔ p + n ≤ s.length ∧ v = beNat ((s.drop p).take n) ∧ p' = p + n := by
  rw [rdUInt_eq]
  split
  · simp only [Except.ok.injEq, Prod.mk.injEq]
    constructor
    · rintro ⟨rfl, rfl⟩; exact ⟨‹_›, rfl, rfl⟩
    · rintro ⟨-, rfl, rfl⟩; exact ⟨rfl, rfl⟩
  · constructor
    · intro h; cases h
    · rintro ⟨h, -⟩; contradiction

/-- What a string read consumes: the length field and the text (R45). -/
theorem rdStr_ok {s : Bytes} {p p' : Nat} {v : Bytes} (h : rdStr s p = .ok (v, p')) :
    p + 2 + v.length = p' ∧ p' ≤ s.length ∧ v.length = beNat ((s.drop p).take 2) ∧
      v = (s.drop (p + 2)).take v.length := by
  unfold rdStr rdU16 at h
  rw [rdUInt_eq] at h
  split at h
  · have h : rdBytes (beNat ((s.drop p).take 2)) s (p + 2) = .ok (v, p') := h
    obtain ⟨h1, h2, h3⟩ := (rdBytes_ok_iff ..).1 h
    have hl : v.length = beNat ((s.drop p).take 2) := by rw [h2]; simp; omega
    exact ⟨by omega, by omega, hl, by rw [hl]; exact h2⟩
  · cases h

/-! ### Writers (20_memory.md R47) -/

@[simp] theorem beBytes_length (n v : Nat) : (beBytes n v).length = n := by
  induction n generalizing v with
  | zero => rfl
  | succ n ih => simp [beBytes, ih]

theorem beNat_append_one (b : Bytes) (x : Byte) : beNat (b ++ [x]) = 256 * beNat b + x.toNat := by
  simp [beNat]

/-- A big-endian field holds the value it was written from (R43). -/
theorem beNat_beBytes (n v : Nat) : beNat (beBytes n v) = v % 256 ^ n := by
  induction n generalizing v with
  | zero => simp [beBytes, beNat, Nat.mod_one]
  | succ n ih =>
    have h : (2 : Nat) ^ 8 = 256 := rfl
    rw [beBytes, beNat_append_one, ih, BitVec.toNat_ofNat, pow_succ' 256 n, Nat.mod_mul, h]
    omega

/-- A value read from `n` bytes is below `256 ^ n` (R44). -/
theorem beNat_lt (b : Bytes) : beNat b < 256 ^ b.length := by
  induction b using List.reverseRecOn with
  | nil => simp [beNat]
  | append_singleton b x ih =>
    rw [beNat_append_one, List.length_append, List.length_singleton, pow_succ]
    have := x.isLt
    omega

theorem wrU32_eq (v : Nat) :
    wrU32 v = if v ≤ Config.maxField then .ok (beBytes 4 v) else .error .capacityExceeded := by
  unfold wrU32; split <;> split <;> first | rfl | omega

theorem wrStr_eq (b : Bytes) :
    wrStr b = if b.length ≤ Config.maxStr then .ok (beBytes 2 b.length ++ b) else .error .capacityExceeded := by
  unfold wrStr wrU16; split <;> split <;> first | rfl | omega

/-! ### Requests (20_memory.md R57; 46_operations.md R162, R163) -/

@[simp] theorem Act.pure_apply {α : Type} (a : α) (h : HostSide) : Act.pure a h = (.ok a, h) := rfl

@[simp] theorem Act.raise_apply {α : Type} (e : Err) (h : HostSide) : (Act.raise e : Act α) h = (.error e, h) := rfl

@[simp] theorem Act.lift_apply {α : Type} (r : Except Err α) (h : HostSide) : Act.lift r h = (r, h) := rfl

@[simp] theorem ask_apply (q : HostReq) (h : HostSide) :
    ask q h = (.ok (h.reply q), h.after q) := rfl

/-- A sequence that succeeds went through both parts. -/
theorem Act.bind_ok_iff {α β : Type} (x : Act α) (f : α → Act β) (h h' : HostSide) (b : β) :
    x.bind f h = (.ok b, h') ↔ ∃ a h1, x h = (.ok a, h1) ∧ f a h1 = (.ok b, h') := by
  unfold Act.bind
  constructor
  · intro hb
    split at hb
    · exact ⟨_, _, ‹_›, hb⟩
    · cases hb
  · rintro ⟨a, h1, hx, hf⟩
    simp [hx, hf]

/-- A sequence that fails did so in its first part, or in the second after the first succeeded. -/
theorem Act.bind_error_iff {α β : Type} (x : Act α) (f : α → Act β) (h h' : HostSide) (e : Err) :
    x.bind f h = (.error e, h') ↔
      x h = (.error e, h') ∨ ∃ a h1, x h = (.ok a, h1) ∧ f a h1 = (.error e, h') := by
  unfold Act.bind
  constructor
  · intro hb
    split at hb
    · exact .inr ⟨_, _, ‹_›, hb⟩
    · next he => cases hb; exact .inl he
  · rintro (hx | ⟨a, h1, hx, hf⟩) <;> simp [*]

/-- A demanded request: IOFAIL raises IOFailure, any other reply is accepted; either way the request was made. -/
theorem demand_apply (q : HostReq) (h : HostSide) :
    demand q h = (if h.reply q = .ioFail then .error .ioFailure else .ok (), h.after q) := by
  unfold demand Act.bind
  simp only [ask_apply]
  split <;> rfl

/-- An error with the archive open issues H_CLOSE and keeps the error (R163). -/
theorem closingOnError_apply {α : Type} (body : Act α) (h : HostSide) :
    closingOnError body h =
      match body h with
      | (.ok a, h') => (.ok a, h')
      | (.error e, h') => (.error e, h'.after .close) := rfl

@[simp] theorem HostSide.after_trace (h : HostSide) (q : HostReq) :
    (h.after q).trace = h.trace ++ [(q, h.reply q)] := rfl

@[simp] theorem HostSide.after_draws (h : HostSide) (q : HostReq) :
    (h.after q).draws = h.draws.tail := rfl

@[simp] theorem HostSide.after_mayChange (h : HostSide) (q : HostReq) :
    (h.after q).mayChange = h.mayChange := rfl

@[simp] theorem HostSide.after_archive (h : HostSide) (q : HostReq) :
    (h.after q).archive = archiveAfter h.archive q (h.reply q) := rfl

/-- Under duty 4 a request finds the filesystem the last one left (R59). -/
theorem HostSide.found_of_stable {h : HostSide} (hm : h.mayChange = false) : h.found = h.files := by
  simp [HostSide.found, hm]

/-- IOFAIL may answer any request (R57). -/
theorem replyTo_of_fail {d : Draw} (h : d.fail = true) (fs : FileSystem) (q : HostReq) :
    replyTo d fs q = .ioFail := by
  simp [replyTo, h]

theorem readReply_data {d : Draw} {b c : Bytes} (h : readReply d b = .data c) : c = b := by
  unfold readReply at h
  split at h <;> cases h
  rfl

/-- The bytes a read answers for a file are its contents. -/
theorem replyTo_read_data {d : Draw} {fs : FileSystem} {p b c : Bytes} (h : replyTo d fs (.read p) = .data b)
    (hc : fsLookup fs p = some (.file c)) : b = c := by
  unfold replyTo at h
  split at h
  · cases h
  · simp only [hc] at h
    exact readReply_data h

/-- A request that changes the filesystem is answered OK, or IOFAIL where that is drawn, whatever its path names (U24). -/
theorem replyTo_write (d : Draw) (fs : FileSystem) (q : HostReq)
    (hq : (∃ p, q = .create p) ∨ (∃ b, q = .append b) ∨ q = .close ∨ (∃ p, q = .mkdirs p) ∨ ∃ p b, q = .writeFile p b) :
    replyTo d fs q = if d.fail then .ioFail else .ok := by
  rcases hq with ⟨p, rfl⟩ | ⟨b, rfl⟩ | rfl | ⟨p, rfl⟩ | ⟨p, b, rfl⟩ <;> rfl

end Sys2Proof.Machine
end

