-- ==== Sys2Proof/Laws/Fuel.lean ====
section
/-! SUPPORT. The loops of the meanings end before their fuel does (70_reset_and_hazards.md R186, R195): more fuel changes
nothing, so no result comes from running out. -/

namespace Sys2Proof.Machine

/-! ### BUILD's merging loop -/

@[simp] theorem enqueue_length (x : Ranked) (q : List Ranked) : (enqueue x q).length = q.length + 1 := by
  induction q with
  | nil => rfl
  | cons y q ih => unfold enqueue; split <;> simp [ih]

/-- Any fuel at least the queue's length gives the same tree. -/
theorem mergeAll_fuel (f g seq : Nat) (q : List Ranked) (hf : q.length ≤ f) (hg : q.length ≤ g) :
    mergeAll f seq q = mergeAll g seq q := by
  induction f generalizing g seq q with
  | zero =>
    have : q = [] := List.length_eq_zero_iff.1 (by omega)
    subst this; cases g <;> rfl
  | succ f ih =>
    match q, g with
    | [], 0 => rfl
    | [], _ + 1 => rfl
    | [_], 0 => simp at hg
    | [_], _ + 1 => rfl
    | _ :: _ :: _, 0 => simp at hg
    | x :: y :: q, g + 1 =>
      simp only [mergeAll]
      exact ih _ _ _ (by simp at *; omega) (by simp at *; omega)

/-! ### The entry loops of DDIR and PREV -/

/-- A bind of two readers that succeeds went through both. -/
theorem Except.bind_ok_iff {ε α β : Type} (x : Except ε α) (f : α → Except ε β) (b : β) :
    x >>= f = .ok b ↔ ∃ a, x = .ok a ∧ f a = .ok b := by
  cases x with
  | ok a =>
    constructor
    · intro h; exact ⟨a, rfl, h⟩
    · rintro ⟨a', h, hf⟩; cases h; exact hf
  | error e =>
    constructor
    · intro h; cases h
    · rintro ⟨a, h, -⟩; cases h

/-- An entry read takes at least 5 bytes, all inside the stream, whenever the payload reader only moves forward (R128). -/
theorem entryReadWith_advances {φ : Type} {payload : Bytes → Nat → Except Err (φ × Nat)}
    (hp : ∀ s p f p', payload s p = .ok (f, p') → p ≤ p')
    {s : Bytes} {p p' : Nat} {e : Entry φ} (h : entryReadWith payload s p = .ok (e, p')) (hne : e ≠ .stop) :
    p + 5 ≤ p' ∧ p < s.length := by
  unfold entryReadWith at h
  split at h
  · cases h; exact absurd rfl hne
  · obtain ⟨⟨tag, p1⟩, h1, h⟩ := (Except.bind_ok_iff _ _ _).1 h
    have t1 := rdStr_ok h1
    dsimp only at h
    split at h
    · next ht =>
      obtain ⟨⟨path, p2⟩, h2, h⟩ := (Except.bind_ok_iff _ _ _).1 h
      have t2 := rdStr_ok h2
      cases h
      subst ht
      simp only [tagDir, List.length_singleton] at t1
      omega
    · split at h
      · next ht =>
        obtain ⟨⟨path, p2⟩, h2, h⟩ := (Except.bind_ok_iff _ _ _).1 h
        have t2 := rdStr_ok h2
        obtain ⟨⟨f, p3⟩, h3, h⟩ := (Except.bind_ok_iff _ _ _).1 h
        have t3 := hp _ _ _ _ h3
        cases h
        subst ht
        simp only [tagFile, List.length_cons, List.length_nil] at t1
        omega
      · cases h

theorem rdU8_advances {s : Bytes} {p p' : Nat} {v : Byte} (h : rdU8 s p = .ok (v, p')) : p' = p + 1 ∧ p' ≤ s.length := by
  obtain ⟨⟨n, p1⟩, h1, h⟩ := (Except.bind_ok_iff _ _ _).1 h
  obtain ⟨h2, -, h3⟩ := (rdUInt_ok_iff ..).1 h1
  cases h
  omega

theorem rdBits_advances {n : Nat} {s : Bytes} {p p' : Nat} {c : Bits} (h : rdBits n s p = .ok (c, p')) :
    p' = p + 2 * n ∧ c.length = n := by
  induction n generalizing p p' c with
  | zero => cases h; exact ⟨by omega, rfl⟩
  | succ n ih =>
    unfold rdBits at h
    obtain ⟨⟨u, p1⟩, h1, h⟩ := (Except.bind_ok_iff _ _ _).1 h
    obtain ⟨-, -, h3⟩ := (rdUInt_ok_iff ..).1 h1
    obtain ⟨bit, -, h⟩ := (Except.bind_ok_iff _ _ _).1 h
    obtain ⟨⟨bits, p2⟩, h4, h⟩ := (Except.bind_ok_iff _ _ _).1 h
    obtain ⟨h5, h6⟩ := ih h4
    cases h
    exact ⟨by omega, by simp [h6]⟩

theorem tdesEntries_advances {n : Nat} {s : Bytes} {p p' : Nat} {c c' : CodeTable}
    (h : tdesEntries n s p c = .ok (c', p')) : p ≤ p' := by
  induction n generalizing p p' c with
  | zero => cases h; exact le_refl _
  | succ n ih =>
    unfold tdesEntries at h
    obtain ⟨⟨b, p1⟩, h1, h⟩ := (Except.bind_ok_iff _ _ _).1 h
    obtain ⟨⟨len, p2⟩, h2, h⟩ := (Except.bind_ok_iff _ _ _).1 h
    obtain ⟨_, -, h⟩ := (Except.bind_ok_iff _ _ _).1 h
    obtain ⟨_, -, h⟩ := (Except.bind_ok_iff _ _ _).1 h
    obtain ⟨⟨bits, p3⟩, h3, h⟩ := (Except.bind_ok_iff _ _ _).1 h
    obtain ⟨_, -, h⟩ := (Except.bind_ok_iff _ _ _).1 h
    have a1 := rdU8_advances h1
    obtain ⟨-, -, a2⟩ := (rdUInt_ok_iff ..).1 h2
    have a3 := rdBits_advances h3
    have a4 := ih h
    omega

theorem tdes_advances {s : Bytes} {p p' : Nat} {c : CodeTable} (h : tdes s p = .ok (c, p')) : p + 4 ≤ p' := by
  unfold tdes at h
  obtain ⟨⟨n, p1⟩, h1, h⟩ := (Except.bind_ok_iff _ _ _).1 h
  obtain ⟨_, -, h⟩ := (Except.bind_ok_iff _ _ _).1 h
  obtain ⟨_, -, h⟩ := (Except.bind_ok_iff _ _ _).1 h
  obtain ⟨-, -, a1⟩ := (rdUInt_ok_iff ..).1 h1
  have := tdesEntries_advances h
  omega

theorem frameRead_advances {s : Bytes} {p p' : Nat} {f : Frame} (h : frameRead s p = .ok (f, p')) : p ≤ p' := by
  unfold frameRead at h
  obtain ⟨⟨len, p1⟩, h1, h⟩ := (Except.bind_ok_iff _ _ _).1 h
  obtain ⟨_, -, h⟩ := (Except.bind_ok_iff _ _ _).1 h
  obtain ⟨⟨e, p2⟩, h2, h⟩ := (Except.bind_ok_iff _ _ _).1 h
  obtain ⟨_, -, h⟩ := (Except.bind_ok_iff _ _ _).1 h
  obtain ⟨⟨c, p3⟩, h3, h⟩ := (Except.bind_ok_iff _ _ _).1 h
  obtain ⟨⟨pk, p4⟩, h4, h⟩ := (Except.bind_ok_iff _ _ _).1 h
  obtain ⟨-, -, a1⟩ := (rdUInt_ok_iff ..).1 h1
  have a2 := rdU8_advances h2
  have a3 := tdes_advances h3
  obtain ⟨-, -, a4⟩ := (rdBytes_ok_iff ..).1 h4
  cases h
  omega

theorem skipEntries_advances {n : Nat} {s : Bytes} {p p' : Nat} (h : skipEntries n s p = .ok p') : p ≤ p' := by
  induction n generalizing p p' with
  | zero => cases h; exact le_refl _
  | succ n ih =>
    unfold skipEntries at h
    obtain ⟨⟨b, p1⟩, h1, h⟩ := (Except.bind_ok_iff _ _ _).1 h
    obtain ⟨⟨len, p2⟩, h2, h⟩ := (Except.bind_ok_iff _ _ _).1 h
    obtain ⟨⟨u, p3⟩, h3, h⟩ := (Except.bind_ok_iff _ _ _).1 h
    have a1 := rdU8_advances h1
    obtain ⟨-, -, a2⟩ := (rdUInt_ok_iff ..).1 h2
    obtain ⟨-, -, a3⟩ := (rdBytes_ok_iff ..).1 h3
    have a4 := ih h
    omega

theorem frameSkip_advances {s : Bytes} {p p' : Nat} (h : frameSkip s p = .ok p') : p ≤ p' ∧ p' ≤ s.length := by
  unfold frameSkip at h
  obtain ⟨⟨len, p1⟩, h1, h⟩ := (Except.bind_ok_iff _ _ _).1 h
  obtain ⟨⟨e, p2⟩, h2, h⟩ := (Except.bind_ok_iff _ _ _).1 h
  obtain ⟨⟨n, p3⟩, h3, h⟩ := (Except.bind_ok_iff _ _ _).1 h
  obtain ⟨p4, h4, h⟩ := (Except.bind_ok_iff _ _ _).1 h
  obtain ⟨⟨pk, p5⟩, h5, h⟩ := (Except.bind_ok_iff _ _ _).1 h
  obtain ⟨-, -, a1⟩ := (rdUInt_ok_iff ..).1 h1
  have a2 := rdU8_advances h2
  obtain ⟨-, -, a3⟩ := (rdUInt_ok_iff ..).1 h3
  have a4 := skipEntries_advances h4
  obtain ⟨a6, -, a5⟩ := (rdBytes_ok_iff ..).1 h5
  cases h
  omega

theorem entryRead_advances {s : Bytes} {p p' : Nat} {e : Entry Frame} (h : entryRead s p = .ok (e, p'))
    (hne : e ≠ .stop) : p + 5 ≤ p' ∧ p < s.length :=
  entryReadWith_advances (fun _ _ _ _ => frameRead_advances) h hne

theorem entrySkip_advances {s : Bytes} {p p' : Nat} {e : Entry Unit} (h : entrySkip s p = .ok (e, p'))
    (hne : e ≠ .stop) : p + 5 ≤ p' ∧ p < s.length := by
  refine entryReadWith_advances (fun s p f p' h => ?_) h hne
  obtain ⟨q, h1, h⟩ := (Except.bind_ok_iff _ _ _).1 h
  have := frameSkip_advances h1
  cases h
  omega

/-- More fuel than the bytes left changes nothing of PREV's loop. -/
theorem previewEntries_fuel (a : Bytes) (f g p : Nat) (st : List Bytes) (hf : a.length < p + f) (hg : a.length < p + g)
    (hpf : 0 < f) (hpg : 0 < g) : previewEntries a f p st = previewEntries a g p st := by
  induction f generalizing g p st with
  | zero => omega
  | succ f ih =>
    obtain ⟨g, rfl⟩ : ∃ k, g = k + 1 := ⟨g - 1, by omega⟩
    unfold previewEntries
    cases h : entrySkip a p with
    | error e => rfl
    | ok r =>
      obtain ⟨e, p'⟩ := r
      cases e with
      | stop => rfl
      | dir q =>
        have := entrySkip_advances h (by simp)
        simp only [ih g p' (q :: popTo q st) (by omega) (by omega) (by omega) (by omega)]
      | file q u =>
        have := entrySkip_advances h (by simp)
        simp only [ih g p' (popTo q st) (by omega) (by omega) (by omega) (by omega)]

/-- More fuel than the bytes left changes nothing of DDIR's loop. -/
theorem applyEntries_fuel (cap : Nat) (base a : Bytes) (f g p : Nat) (hf : a.length < p + f) (hg : a.length < p + g)
    (hpf : 0 < f) (hpg : 0 < g) (h : HostSide) : applyEntries cap base a f p h = applyEntries cap base a g p h := by
  induction f generalizing g p h with
  | zero => omega
  | succ f ih =>
    obtain ⟨g, rfl⟩ : ∃ k, g = k + 1 := ⟨g - 1, by omega⟩
    unfold applyEntries Act.bind
    simp only [Act.lift_apply]
    cases hr : entryRead a p with
    | error e => rfl
    | ok r =>
      obtain ⟨e, p'⟩ := r
      cases e with
      | stop => rfl
      | dir q =>
        have := entryRead_advances hr (by simp)
        have hfg : applyEntries cap base a f p' = applyEntries cap base a g p' :=
          funext (ih g p' (by omega) (by omega) (by omega) (by omega))
        simp only [hfg]
      | file q fr =>
        have := entryRead_advances hr (by simp)
        have hfg : applyEntries cap base a f p' = applyEntries cap base a g p' :=
          funext (ih g p' (by omega) (by omega) (by omega) (by omega))
        simp only [hfg]

end Sys2Proof.Machine
end

