-- ==== Sys2Proof/Laws/Exec.lean ====
section
/-! SUPPORT. What an issued command can do, said once for all commands: `exec_cases`. -/

namespace Sys2Proof.Machine

/-- The registers of `t` are those of `s` but for DOUT, POS, FT, TREE, CT, PK, EFF, NAME and KIND; DOUT has grown. -/
structure KeepsInputs (s t : State) : Prop where
  status : t.status = s.status
  din : t.din = s.din
  pin : t.pin = s.pin
  pout : t.pout = s.pout
  pdst : t.pdst = s.pdst
  pvw : t.pvw = s.pvw
  params : t.params = s.params
  host : t.host = s.host
  tx : t.tx = s.tx
  readout : t.readout = s.readout
  dout : s.dout <+: t.dout

theorem appendDout_keeps {o : Bytes} {s t : State} (h : s.appendDout o = .ok t) : KeepsInputs s t := by
  obtain ⟨-, rfl⟩ := State.appendDout_ok h
  exact ⟨rfl, rfl, rfl, rfl, rfl, rfl, rfl, rfl, rfl, rfl, List.prefix_append _ _⟩

/-- A computation of registers that ends in an append to DOUT keeps the inputs. -/
theorem bind_appendDout_keeps {r : Except Err Bytes} {s t : State} (h : (do let o ← r; s.appendDout o) = .ok t) :
    KeepsInputs s t := by
  obtain ⟨o, -, h⟩ := (Except.bind_ok_iff _ _ _).1 h
  exact appendDout_keeps h

theorem codesRegs_keeps {s t : State} (h : codesRegs s = .ok t) : KeepsInputs s t := by
  obtain ⟨c, -, h⟩ := (Except.bind_ok_iff _ _ _).1 h
  cases h
  exact ⟨rfl, rfl, rfl, rfl, rfl, rfl, rfl, rfl, rfl, rfl, List.prefix_rfl⟩

theorem trieRegs_keeps {s t : State} (h : trieRegs s = .ok t) : KeepsInputs s t := by
  obtain ⟨c, -, h⟩ := (Except.bind_ok_iff _ _ _).1 h
  cases h
  exact ⟨rfl, rfl, rfl, rfl, rfl, rfl, rfl, rfl, rfl, rfl, List.prefix_rfl⟩

theorem tdesRegs_keeps {s t : State} (h : tdesRegs s = .ok t) : KeepsInputs s t := by
  obtain ⟨⟨c, p⟩, -, h⟩ := (Except.bind_ok_iff _ _ _).1 h
  cases h
  exact ⟨rfl, rfl, rfl, rfl, rfl, rfl, rfl, rfl, rfl, rfl, List.prefix_rfl⟩

theorem packRegs_keeps {s t : State} (h : packRegs s = .ok t) : KeepsInputs s t := by
  obtain ⟨⟨o, e⟩, -, h⟩ := (Except.bind_ok_iff _ _ _).1 h
  obtain ⟨-, -, h⟩ := (Except.bind_ok_iff _ _ _).1 h
  cases h
  exact ⟨rfl, rfl, rfl, rfl, rfl, rfl, rfl, rfl, rfl, rfl, List.prefix_rfl⟩

theorem fencRegs_keeps {s t : State} (h : fencRegs s = .ok t) : KeepsInputs s t := by
  obtain ⟨c, -, h⟩ := (Except.bind_ok_iff _ _ _).1 h
  obtain ⟨⟨o, e⟩, -, h⟩ := (Except.bind_ok_iff _ _ _).1 h
  obtain ⟨-, -, h⟩ := (Except.bind_ok_iff _ _ _).1 h
  cases h
  exact ⟨rfl, rfl, rfl, rfl, rfl, rfl, rfl, rfl, rfl, rfl, List.prefix_rfl⟩

theorem fdecRegs_keeps {s t : State} (h : fdecRegs s = .ok t) : KeepsInputs s t := by
  obtain ⟨tr, -, h⟩ := (Except.bind_ok_iff _ _ _).1 h
  obtain ⟨o, -, h⟩ := (Except.bind_ok_iff _ _ _).1 h
  obtain ⟨u, hu, h⟩ := (Except.bind_ok_iff _ _ _).1 h
  cases h
  obtain ⟨-, rfl⟩ := State.appendDout_ok hu
  exact ⟨rfl, rfl, rfl, rfl, rfl, rfl, rfl, rfl, rfl, rfl, List.prefix_append _ _⟩

theorem prdRegs_keeps {s t : State} (h : prdRegs s = .ok t) : KeepsInputs s t := by
  obtain ⟨⟨f, p⟩, -, h⟩ := (Except.bind_ok_iff _ _ _).1 h
  cases h
  exact ⟨rfl, rfl, rfl, rfl, rfl, rfl, rfl, rfl, rfl, rfl, List.prefix_rfl⟩

theorem pskipRegs_keeps {s t : State} (h : pskipRegs s = .ok t) : KeepsInputs s t := by
  obtain ⟨p, -, h⟩ := (Except.bind_ok_iff _ _ _).1 h
  cases h
  exact ⟨rfl, rfl, rfl, rfl, rfl, rfl, rfl, rfl, rfl, rfl, List.prefix_rfl⟩

theorem erdRegs_keeps {s t : State} (h : erdRegs s = .ok t) : KeepsInputs s t := by
  obtain ⟨⟨e, p⟩, -, h⟩ := (Except.bind_ok_iff _ _ _).1 h
  cases e <;>
  · simp only [Except.ok.injEq] at h
    subst h
    constructor <;> simp

theorem hrdRegs_keeps {fold : Bool} {s t : State} (h : hrdRegs fold s = .ok t) : KeepsInputs s t := by
  obtain ⟨⟨n, p⟩, -, h⟩ := (Except.bind_ok_iff _ _ _).1 h
  cases h
  exact ⟨rfl, rfl, rfl, rfl, rfl, rfl, rfl, rfl, rfl, rfl, List.prefix_rfl⟩

/-- All a command can do. A primitive one computes registers, keeping the inputs, or an error; CFILE, DFILE, CDIR and DDIR
run requests and touch no register but STATUS; PREV runs one request and writes NAME and PVW (00_scope.md R15,
10_state.md R37, 60_exceptions.md R169). -/
theorem exec_cases (i : Instr) (s : State) :
    (∃ r : Except Err State, exec i s = .next (s.finish (opcode i) r) ∧ ∀ t, r = .ok t → KeepsInputs s t) ∨
    (∃ act : Act Unit, i ≠ .prev ∧ exec i s = .next (s.operate (opcode i) act)) ∨
    (i = .prev ∧ exec i s = execPrev s) := by
  cases i with
  | freq =>
    refine .inl ⟨_, rfl, fun t h => ?_⟩
    cases h
    exact ⟨rfl, rfl, rfl, rfl, rfl, rfl, rfl, rfl, rfl, rfl, List.prefix_rfl⟩
  | build =>
    refine .inl ⟨_, rfl, fun t h => ?_⟩
    cases h
    exact ⟨rfl, rfl, rfl, rfl, rfl, rfl, rfl, rfl, rfl, rfl, List.prefix_rfl⟩
  | codes => exact .inl ⟨_, rfl, fun _ => codesRegs_keeps⟩
  | trie => exact .inl ⟨_, rfl, fun _ => trieRegs_keeps⟩
  | tser => exact .inl ⟨_, rfl, fun _ => bind_appendDout_keeps⟩
  | tdes => exact .inl ⟨_, rfl, fun _ => tdesRegs_keeps⟩
  | pack => exact .inl ⟨_, rfl, fun _ => packRegs_keeps⟩
  | unpack => exact .inl ⟨_, rfl, fun _ => bind_appendDout_keeps⟩
  | fenc => exact .inl ⟨_, rfl, fun _ => fencRegs_keeps⟩
  | fdec => exact .inl ⟨_, rfl, fun _ => fdecRegs_keeps⟩
  | pwr => exact .inl ⟨_, rfl, fun _ => bind_appendDout_keeps⟩
  | prd => exact .inl ⟨_, rfl, fun _ => prdRegs_keeps⟩
  | pskip => exact .inl ⟨_, rfl, fun _ => pskipRegs_keeps⟩
  | ewrDir => exact .inl ⟨_, rfl, fun _ => bind_appendDout_keeps⟩
  | ewrFile => exact .inl ⟨_, rfl, fun _ => bind_appendDout_keeps⟩
  | erd => exact .inl ⟨_, rfl, fun _ => erdRegs_keeps⟩
  | hwrFile => exact .inl ⟨_, rfl, fun _ => bind_appendDout_keeps⟩
  | hwrFold => exact .inl ⟨_, rfl, fun _ => bind_appendDout_keeps⟩
  | hrdFile => exact .inl ⟨_, rfl, fun _ => hrdRegs_keeps⟩
  | hrdFold => exact .inl ⟨_, rfl, fun _ => hrdRegs_keeps⟩
  | cfile => exact .inr (.inl ⟨_, by decide, rfl⟩)
  | dfile => exact .inr (.inl ⟨_, by decide, rfl⟩)
  | cdir => exact .inr (.inl ⟨_, by decide, rfl⟩)
  | ddir => exact .inr (.inl ⟨_, by decide, rfl⟩)
  | prev => exact .inr (.inr ⟨rfl, rfl⟩)

/-- Every command ends in a next state: HCT has no fault and refuses no command (70_reset_and_hazards.md R196). -/
theorem exec_next (i : Instr) (s : State) : ∃ t, exec i s = .next t := by
  rcases exec_cases i s with ⟨r, h, -⟩ | ⟨act, -, h⟩ | ⟨-, h⟩
  · exact ⟨_, h⟩
  · exact ⟨_, h⟩
  · exact ⟨_, h⟩

end Sys2Proof.Machine
end

