-- ==== Sys2Proof/Laws/Maps.lean ====
section
/-! SUPPORT. The canonical forms are kept by every operation: the maps CT and FT (10_state.md R29, R31) and the host's
filesystem (R38); a read after a write gives the value written and leaves every other place alone. -/

namespace Sys2Proof.Machine

/-! ### Maps from byte values -/

theorem mapGet_mapSet {α : Type} (b c : Byte) (v : α) (m : List (Byte × α)) :
    mapGet (mapSet b v m) c = if b = c then some v else mapGet m c := by
  induction m with
  | nil => simp [mapSet, mapGet]
  | cons e m ih =>
    obtain ⟨k, w⟩ := e
    unfold mapSet
    split
    · subst_vars; simp only [mapGet]; split <;> rfl
    · split
      · simp only [mapGet]
      · simp only [mapGet, ih]
        split
        · subst_vars; simp [*]
        · rfl

theorem mem_mapSet {α : Type} {b : Byte} {v : α} {m : List (Byte × α)} {e : Byte × α} (h : e ∈ mapSet b v m) :
    e = (b, v) ∨ e ∈ m := by
  induction m with
  | nil => simpa [mapSet] using h
  | cons x m ih =>
    obtain ⟨k, w⟩ := x
    unfold mapSet at h
    split at h
    · rcases List.mem_cons.1 h with rfl | h
      · exact .inl rfl
      · exact .inr (List.mem_cons_of_mem _ h)
    · split at h
      · rcases List.mem_cons.1 h with rfl | h
        · exact .inl rfl
        · exact .inr h
      · rcases List.mem_cons.1 h with rfl | h
        · exact .inr List.mem_cons_self
        · exact (ih h).imp id (List.mem_cons_of_mem _)

theorem mapSet_ascending {α : Type} {b : Byte} {v : α} {m : List (Byte × α)} (h : Ascending m) :
    Ascending (mapSet b v m) := by
  induction m with
  | nil => simp [mapSet]
  | cons x m ih =>
    obtain ⟨k, w⟩ := x
    obtain ⟨hk, hm⟩ := List.pairwise_cons.1 h
    unfold mapSet
    split
    · subst_vars; exact List.pairwise_cons.2 ⟨hk, hm⟩
    · next hbk =>
      split
      · next hlt =>
        refine List.pairwise_cons.2 ⟨fun e he => ?_, h⟩
        rcases List.mem_cons.1 he with rfl | he
        · exact hlt
        · exact hlt.trans (hk e he)
      · next hge =>
        refine List.pairwise_cons.2 ⟨fun e he => ?_, ih hm⟩
        rcases mem_mapSet he with rfl | he
        · have : b.toNat ≠ k.toNat := fun hc => hbk (BitVec.eq_of_toNat_eq hc)
          show k.toNat < b.toNat
          omega
        · exact hk e he

/-! ### The order of byte strings (00_scope.md R11) -/

theorem bytesLt_irrefl (a : Bytes) : bytesLt a a = false := by
  induction a with
  | nil => rfl
  | cons x a ih => simp [bytesLt, ih]

theorem bytesLt_trans {a b c : Bytes} (h1 : bytesLt a b = true) (h2 : bytesLt b c = true) : bytesLt a c = true := by
  induction a generalizing b c with
  | nil =>
    cases b with
    | nil => simp [bytesLt] at h1
    | cons y b => cases c with
      | nil => simp [bytesLt] at h2
      | cons z c => rfl
  | cons x a ih =>
    cases b with
    | nil => simp [bytesLt] at h1
    | cons y b =>
      cases c with
      | nil => simp [bytesLt] at h2
      | cons z c =>
        simp only [bytesLt] at h1 h2 ⊢
        by_cases hxy : x = y
        · subst hxy
          by_cases hxz : x = z
          · subst hxz; simp only [↓reduceIte] at *; exact ih h1 h2
          · simpa [hxz] using h2
        · by_cases hyz : y = z
          · subst hyz; simp only [hxy, ↓reduceIte] at *; exact h1
          · simp only [hxy, hyz, ↓reduceIte, decide_eq_true_eq] at *
            have hxz : x ≠ z := by rintro rfl; omega
            simp only [hxz, ↓reduceIte, decide_eq_true_eq]
            omega

/-- Two different byte strings are ordered one way or the other. -/
theorem bytesLt_total {a b : Bytes} (hne : a ≠ b) (h : bytesLt a b = false) : bytesLt b a = true := by
  induction a generalizing b with
  | nil => cases b with
    | nil => exact absurd rfl hne
    | cons y b => simp [bytesLt] at h
  | cons x a ih =>
    cases b with
    | nil => rfl
    | cons y b =>
      simp only [bytesLt] at h ⊢
      by_cases hxy : x = y
      · subst hxy
        simp only [↓reduceIte] at *
        exact ih (fun hc => hne (by rw [hc])) h
      · have hyx : y ≠ x := fun hc => hxy hc.symm
        simp only [hxy, hyx, ↓reduceIte, decide_eq_false_iff_not, decide_eq_true_eq] at h ⊢
        have : x.toNat ≠ y.toNat := fun hc => hxy (BitVec.eq_of_toNat_eq hc)
        omega

/-! ### The filesystem (10_state.md R38) -/

theorem fsLookup_fsInsert (p q : Bytes) (n : FsNode) (fs : FileSystem) :
    fsLookup (fsInsert p n fs) q = if p = q then some n else fsLookup fs q := by
  induction fs with
  | nil => simp [fsInsert, fsLookup]
  | cons e fs ih =>
    obtain ⟨k, m⟩ := e
    unfold fsInsert
    split
    · subst_vars; simp only [fsLookup]; split <;> rfl
    · split
      · simp only [fsLookup]
      · simp only [fsLookup, ih]
        split
        · subst_vars; simp [*]
        · rfl

theorem mem_fsInsert {p : Bytes} {n : FsNode} {fs : FileSystem} {e : Bytes × FsNode} (h : e ∈ fsInsert p n fs) :
    e = (p, n) ∨ e ∈ fs := by
  induction fs with
  | nil => simpa [fsInsert] using h
  | cons x fs ih =>
    obtain ⟨k, m⟩ := x
    unfold fsInsert at h
    split at h
    · rcases List.mem_cons.1 h with rfl | h
      · exact .inl rfl
      · exact .inr (List.mem_cons_of_mem _ h)
    · split at h
      · exact (List.mem_cons.1 h)
      · rcases List.mem_cons.1 h with rfl | h
        · exact .inr List.mem_cons_self
        · exact (ih h).imp id (List.mem_cons_of_mem _)

/-- Writing one path keeps the canonical form. -/
theorem fsInsert_wf {p : Bytes} {n : FsNode} {fs : FileSystem} (h : FsWf fs) : FsWf (fsInsert p n fs) := by
  induction fs with
  | nil => simp [fsInsert]
  | cons x fs ih =>
    obtain ⟨k, m⟩ := x
    obtain ⟨hk, hm⟩ := List.pairwise_cons.1 h
    unfold fsInsert
    split
    · subst_vars; exact List.pairwise_cons.2 ⟨hk, hm⟩
    · next hpk =>
      split
      · next hlt =>
        refine List.pairwise_cons.2 ⟨fun e he => ?_, h⟩
        rcases List.mem_cons.1 he with rfl | he
        · exact hlt
        · exact bytesLt_trans hlt (hk e he)
      · next hge =>
        refine List.pairwise_cons.2 ⟨fun e he => ?_, ih hm⟩
        rcases mem_fsInsert he with rfl | he
        · exact bytesLt_total hpk (by simpa using hge)
        · exact hk e he

theorem foldl_fsWf {α : Type} (f : FileSystem → α → FileSystem) (hf : ∀ fs a, FsWf fs → FsWf (f fs a)) (l : List α)
    (fs : FileSystem) (h : FsWf fs) : FsWf (l.foldl f fs) := by
  induction l generalizing fs with
  | nil => exact h
  | cons a l ih => exact ih _ (hf _ _ h)

/-- Every list of pairs has a canonical form. -/
theorem fsCanon_wf (fs : FileSystem) : FsWf (fsCanon fs) :=
  foldl_fsWf _ (fun _ _ h => fsInsert_wf h) fs [] List.Pairwise.nil

theorem makeDirs_wf {ds : List Bytes} {fs : FileSystem} (h : FsWf fs) : FsWf (makeDirs ds fs) :=
  foldl_fsWf _ (fun _ _ h => fsInsert_wf h) ds fs h

theorem appendTo_wf {p b : Bytes} {fs : FileSystem} (h : FsWf fs) : FsWf (appendTo p b fs) := by
  unfold appendTo; split <;> exact fsInsert_wf h

theorem filesOnOk_wf {a : Option Bytes} {q : HostReq} {fs : FileSystem} (h : FsWf fs) : FsWf (filesOnOk a q fs) := by
  unfold filesOnOk
  split
  · exact fsInsert_wf h
  · split
    · exact appendTo_wf h
    · exact h
  · exact fsInsert_wf (makeDirs_wf h)
  · exact fsInsert_wf h
  · exact h

theorem filesOnFail_wf {landed : Option Nat} {a : Option Bytes} {q : HostReq} {fs : FileSystem} (h : FsWf fs) :
    FsWf (filesOnFail landed a q fs) := by
  unfold filesOnFail
  split
  · exact h
  · split
    · exact fsInsert_wf h
    · split
      · exact appendTo_wf h
      · exact h
    · exact makeDirs_wf h
    · exact fsInsert_wf h
    · exact h

theorem HostSide.found_wf {h : HostSide} (hw : FsWf h.files) : FsWf h.found := by
  unfold HostSide.found
  split
  · split
    · exact fsCanon_wf _
    · exact hw
  · exact hw

/-- Every request keeps the filesystem's canonical form. -/
theorem HostSide.after_files_wf {h : HostSide} {q : HostReq} (hw : FsWf h.files) :
    FsWf (h.after q).files := by
  show FsWf (if _ then _ else _)
  split
  · exact filesOnFail_wf (HostSide.found_wf hw)
  · exact filesOnOk_wf (HostSide.found_wf hw)

end Sys2Proof.Machine
end

