-- ==== Sys2Proof/Laws/PerInstr.lean ====
section
/-! SUPPORT. A statement about each command as syntax, one lemma per constructor: its word is legal, decodes to it, and
carries its opcode byte and K bit (30_encoding.md R64 to R66). -/

namespace Sys2Proof.Laws.RoundTrip

/-- The command's word is legal, has its fields, and is read back as the command. -/
def Statement (i : Instr) : Prop :=
  legalWord (encode i) = true ∧ decode (encode i) = some i ∧ opField (encode i) = opcode i ∧
    kField (encode i) = kBit i ∧ rsvField (encode i) = 0

theorem freq : Statement .freq := by unfold Statement; decide
theorem build : Statement .build := by unfold Statement; decide
theorem codes : Statement .codes := by unfold Statement; decide
theorem trie : Statement .trie := by unfold Statement; decide
theorem tser : Statement .tser := by unfold Statement; decide
theorem tdes : Statement .tdes := by unfold Statement; decide
theorem pack : Statement .pack := by unfold Statement; decide
theorem unpack : Statement .unpack := by unfold Statement; decide
theorem fenc : Statement .fenc := by unfold Statement; decide
theorem fdec : Statement .fdec := by unfold Statement; decide
theorem pwr : Statement .pwr := by unfold Statement; decide
theorem prd : Statement .prd := by unfold Statement; decide
theorem pskip : Statement .pskip := by unfold Statement; decide
theorem ewrDir : Statement .ewrDir := by unfold Statement; decide
theorem ewrFile : Statement .ewrFile := by unfold Statement; decide
theorem erd : Statement .erd := by unfold Statement; decide
theorem hwrFile : Statement .hwrFile := by unfold Statement; decide
theorem hwrFold : Statement .hwrFold := by unfold Statement; decide
theorem hrdFile : Statement .hrdFile := by unfold Statement; decide
theorem hrdFold : Statement .hrdFold := by unfold Statement; decide
theorem cfile : Statement .cfile := by unfold Statement; decide
theorem dfile : Statement .dfile := by unfold Statement; decide
theorem cdir : Statement .cdir := by unfold Statement; decide
theorem ddir : Statement .ddir := by unfold Statement; decide
theorem prev : Statement .prev := by unfold Statement; decide

end Sys2Proof.Laws.RoundTrip
end

