-- ==== Sys2Proof/Laws/Requests.lean ====
section
/-! SUPPORT. What the parts of the operation commands do: reading a file, building a private stream, emitting it
(46_operations.md R143, R145; 20_memory.md R42). -/

namespace Sys2Proof.Machine

/-- A private stream keeps the bytes that fit BUF_CAP, and the error of the computation otherwise wins. -/
theorem privateStream_eq (cap : Nat) (r : Except Err Bytes) :
    privateStream cap r =
      match r with
      | .ok o => if o.length ≤ cap then .ok o else .error .capacityExceeded
      | .error e => .error e := by
  cases r with
  | error e => rfl
  | ok o =>
    show (do require (decide (o.length ≤ cap)) .capacityExceeded; .ok o : Except Err Bytes) = _
    by_cases h : o.length ≤ cap
    · simp only [h, if_true, decide_true, require]
      rfl
    · simp only [h, if_false, decide_false, require]
      rfl

theorem privateStream_ok_iff (cap : Nat) (r : Except Err Bytes) (o : Bytes) :
    privateStream cap r = .ok o ↔ r = .ok o ∧ o.length ≤ cap := by
  rw [privateStream_eq]
  cases r with
  | error e => simp
  | ok b =>
    by_cases h : b.length ≤ cap
    · simp only [h, if_true, Except.ok.injEq]
      exact ⟨fun hb => ⟨hb, hb ▸ h⟩, fun hb => hb.1⟩
    · simp only [h, if_false, Except.ok.injEq, reduceCtorEq, false_iff]
      rintro ⟨rfl, hb⟩
      exact h hb

/-- What is built is appended to the archive; where it cannot be built no request is made. -/
theorem emitBuilt_apply (cap : Nat) (r : Except Err Bytes) (h : HostSide) :
    emitBuilt cap r h =
      match privateStream cap r with
      | .ok o => demand (.append o) h
      | .error e => (.error e, h) := by
  unfold emitBuilt Act.bind
  simp only [Act.lift_apply]
  cases privateStream cap r <;> rfl

/-- One H_READ, whatever comes back (R143). -/
theorem readFile_apply (path : Bytes) (h : HostSide) :
    readFile path h =
      (match h.reply (.read path) with
        | .data b => .ok b
        | .ioFail => .error .ioFailure
        | _ => .error .notFound, h.after (.read path)) := by
  unfold readFile Act.bind
  simp only [ask_apply]
  cases h.reply (.read path) <;> rfl

/-- One H_READ of an archive: bytes past BUF_CAP are the error (20_memory.md R42). -/
theorem readArchive_apply (cap : Nat) (e : Err) (path : Bytes) (h : HostSide) :
    readArchive cap e path h =
      (match h.reply (.read path) with
        | .data b => if b.length ≤ cap then .ok b else .error e
        | .ioFail => .error .ioFailure
        | _ => .error .notFound, h.after (.read path)) := by
  unfold readArchive Act.bind
  rw [readFile_apply]
  cases h.reply (.read path) with
  | data b =>
    by_cases hb : b.length ≤ cap
    · simp only [hb, if_true]
      rfl
    · simp only [hb, if_false]
      rfl
  | _ => rfl

/-- An archive read is a private stream within BUF_CAP (20_memory.md R42). -/
theorem readArchive_le {cap : Nat} {e : Err} {path b : Bytes} {h h' : HostSide}
    (hr : readArchive cap e path h = (.ok b, h')) : b.length ≤ cap := by
  rw [readArchive_apply] at hr
  cases hq : h.reply (.read path) with
  | data c =>
    simp only [hq] at hr
    by_cases hb : c.length ≤ cap
    · simp only [hb, if_true] at hr
      cases hr
      exact hb
    · simp only [hb, if_false] at hr
      cases hr
  | _ =>
    simp only [hq] at hr
    cases hr

end Sys2Proof.Machine
end

