-- ==== Sys2Proof/Tests/Slice0.lean ====
section
/-! SUPPORT. The model's own tests: vectors of spec/95_test_vectors.md, one step each, and for every statement that has
hypotheses a state that meets them. -/

namespace Sys2Proof.Tests

open Sys2Proof Sys2Proof.Machine Sys2Proof.Certificates

/-! ## Helpers -/

/-- A reply that does not fail, with nothing else drawn. -/
def good : Draw := ⟨none, false, none, [], none, .file⟩

/-- A reply that is IOFAIL and lets `k` bytes of a write land. -/
def bad (k : Nat) : Draw := ⟨none, true, some k, [], none, .file⟩

/-- A reply that is MISSING where the entry is a link, and for H_READ. -/
def gone : Draw := ⟨none, false, none, [], none, .missing⟩

/-- A host with the given files that fails no request. -/
def hostWith (fs : FileSystem) : HostSide := ⟨fsCanon fs, none, [], List.replicate 20 good, false⟩

/-- The reset registers with BUF_CAP 6000, WALK_DEPTH_MAX 2 and the given files. -/
def at0 (fs : FileSystem) : State := State.resetWith ⟨6000, 2, []⟩ (hostWith fs) [] none

/-- The state after a command. -/
def run (i : Instr) (s : State) : State :=
  match exec i s with
  | .next t => t
  | _ => s

/-- The state after one step. -/
def step1 (s : State) : State :=
  match step s with
  | .next t => t
  | _ => s

/-- `41 41 42 43`. -/
def aabc : Bytes := [0x41, 0x41, 0x42, 0x43]

/-- `{41:"0", 42:"10", 43:"11"}`. -/
def ctAabc : CodeTable := [(0x41, [false]), (0x42, [true, false]), (0x43, [true, true])]

/-- `I(A, I(B, C))`. -/
def treeAabc : Tree := .inner (.leaf 0x41) (.inner (.leaf 0x42) (.leaf 0x43))

/-- The 29 bytes of V-TSER-1's third row. -/
def table29 : Bytes :=
  [0x00, 0x00, 0x00, 0x03, 0x41, 0x00, 0x00, 0x00, 0x01, 0x00, 0x30, 0x42, 0x00, 0x00, 0x00, 0x02, 0x00, 0x31, 0x00, 0x30,
    0x43, 0x00, 0x00, 0x00, 0x02, 0x00, 0x31, 0x00, 0x31]

/-- The 35-byte AABC frame of V-CODEC-1. -/
def frame35 : Bytes := [0x00, 0x00, 0x00, 0x01, 0x06] ++ table29 ++ [0x2C]

/-- The frame of `41 41 42 43`. -/
def fAabc : Frame := ⟨ctAabc, 6, [0x2C]⟩

/-- "t.bin", "a", "root", "sub". -/
def tBin : Bytes := [0x74, 0x2E, 0x62, 0x69, 0x6E]
def nameA : Bytes := [0x61]
def root : Bytes := [0x72, 0x6F, 0x6F, 0x74]
def sub : Bytes := [0x73, 0x75, 0x62]

/-- "t.hz", "out". -/
def tHz : Bytes := [0x74, 0x2E, 0x68, 0x7A]
def outDir : Bytes := [0x6F, 0x75, 0x74]

/-- The 47-byte archive of V-OP-1. -/
def archive47 : Bytes := [0x48, 0x46, 0x49, 0x4C, 0x45, 0x00, 0x05, 0x74, 0x2E, 0x62, 0x69, 0x6E] ++ frame35

/-! ## Well-formed words and decoding (30_encoding.md R64 to R67; V-ILL-1) -/

theorem test_wf_legal : legalWord 0x0000010E#32 = true := by decide
theorem test_wf_refuses_unassigned_op : legalWord 0x00000012#32 = false := by decide
theorem test_wf_refuses_reserved_bits : legalWord 0x80000110#32 = false := by decide
theorem test_wf_refuses_k_on_freq : legalWord 0x00000101#32 = false := by decide
theorem test_wf_instr : Instr.wellFormed .freq = true := by decide

theorem test_decode_tree : [0x1, 0x2, 0x3, 0x4, 0x5, 0x6].map (fun w => decodeTableWord 32 w) =
    [some .freq, some .build, some .codes, some .trie, some .tser, some .tdes] := by decide
theorem test_decode_pack : [0x7, 0x8].map (fun w => decodeTableWord 32 w) = [some .pack, some .unpack] := by decide
theorem test_decode_codec : [0x9, 0xA, 0xB, 0xC, 0xD].map (fun w => decodeTableWord 32 w) =
    [some .fenc, some .fdec, some .pwr, some .prd, some .pskip] := by decide
theorem test_decode_container : [0x0E, 0x10E, 0x0F].map (fun w => decodeTableWord 32 w) =
    [some .ewrDir, some .ewrFile, some .erd] := by decide
theorem test_decode_header : [0x10, 0x110, 0x11, 0x111].map (fun w => decodeTableWord 32 w) =
    [some .hwrFile, some .hwrFold, some .hrdFile, some .hrdFold] := by decide
theorem test_decode_operations : [0x18, 0x19, 0x1A, 0x1B, 0x1C].map (fun w => decodeTableWord 32 w) =
    [some .cfile, some .dfile, some .cdir, some .ddir, some .prev] := by decide
theorem test_decode_refuses : [0x0, 0x12, 0x17, 0x1D, 0xFF, 0x101, 0x11C, 0x201, 0x80000110, 0xFFFFFFFF].map
    (fun w => decodeTableWord 32 w) = List.replicate 10 none := by decide

/-! ## Steps (V-ILL-1, V-REG-1) -/

theorem test_step_runs_word : (step1 ((at0 []).withFetchWord 32 0x07)).status = 0x00000700 := by decide
theorem test_step_illegal : (step1 ((at0 []).withFetchWord 32 0x80000110)).status = 0x00001008 := by decide
theorem test_step_idle : step1 (at0 []) = at0 [] := by decide
theorem test_read_eff : (step1 { at0 [] with tx := [.read 9] }).readout = some (.byte 8) := by decide
theorem test_read_no_register : (step1 { at0 [] with tx := [.read 16] }).readout = some (.word 0) := by decide
theorem test_write_status_ignored : (step1 { at0 [] with tx := [.write 1 (.word 5)] }).status = 0 := by decide
theorem test_write_empty_code_refused : (at0 []).hostWrite 7 (.table [(0x41, [])]) = none := by decide
theorem test_write_doubled_sep_refused : (at0 []).hostWrite 14 (.bytes [0x61, 0x2F, 0x2F, 0x62]) = none := by decide
theorem test_write_trailing_sep_refused : (at0 []).hostWrite 13 (.bytes [0x61, 0x2F]) = none := by decide
-- V-OP-6 writes "a/" to PIN
theorem test_write_pin_trailing_sep : ((at0 []).hostWrite 12 (.bytes [0x61, 0x2F])).isSome = true := by decide
theorem test_reset_clears_din : (step1 { at0 [] with din := aabc, eff := 0, tx := [.reset] }).eff = 8 := by decide

/-! ## The commands, one vector or two each (95_test_vectors.md) -/

-- V-TREE-1c
theorem test_freq : (run .freq { at0 [] with din := aabc }).ft = [(0x41, 2), (0x42, 1), (0x43, 1)] := by decide
theorem test_build : (run .build { at0 [] with ft := [(0x41, 2), (0x42, 1), (0x43, 1)] }).tree = treeAabc := by decide
-- V-TREE-1g: two leaves win the tie against the internal node of equal frequency
theorem test_build_tie : buildTree [(0x41, 3), (0x42, 3), (0x43, 2), (0x44, 1)] =
    .inner (.inner (.leaf 0x44) (.leaf 0x43)) (.inner (.leaf 0x41) (.leaf 0x42)) := by decide
theorem test_codes : (run .codes { at0 [] with tree := treeAabc }).ct = ctAabc := by decide
theorem test_trie : (run .trie { at0 [] with ct := ctAabc }).tree = treeAabc := by decide
-- V-TRIE-1: found when 42 is placed
theorem test_trie_not_prefix_free :
    (run .trie { at0 [] with ct := [(0x41, [false, true]), (0x42, [false])] }).status = 0x00000406 := by decide
theorem test_tser : (run .tser { at0 [] with ct := ctAabc }).dout = table29 := by decide
theorem test_tser_full : (run .tser { at0 [] with ct := ctAabc, params := ⟨28, 0, []⟩ }).status = 0x00000507 := by decide
theorem test_tdes : (run .tdes { at0 [] with din := table29 }).ct = ctAabc := by decide
-- V-TDES-1: 257 entries, checked before the length
theorem test_tdes_count : (run .tdes { at0 [] with din := [0x00, 0x00, 0x01, 0x01, 0x00] }).status = 0x00000606 := by
  decide
-- V-PACK-1
theorem test_pack : (run .pack { at0 [] with din := aabc, ct := ctAabc }).pk = [0x2C] ∧
    (run .pack { at0 [] with din := aabc, ct := ctAabc }).eff = 6 := by decide
theorem test_pack_unknown : (run .pack { at0 [] with din := [0x41, 0x44], ct := ctAabc }).status = 0x00000704 := by decide
-- V-UNPACK-1
theorem test_unpack : (run .unpack { at0 [] with pk := [0x2C], eff := 8, tree := treeAabc }).dout =
    [0x41, 0x41, 0x42, 0x43, 0x41, 0x41] := by decide
theorem test_unpack_inside_code : (run .unpack { at0 [] with pk := [0x2C], eff := 5, tree := treeAabc }).status =
    0x00000806 := by decide
-- V-CODEC-1, the A x 9 row
theorem test_fenc : (run .fenc { at0 [] with din := List.replicate 9 0x41 }).pk = [0x00, 0x00] ∧
    (run .fenc { at0 [] with din := List.replicate 9 0x41 }).eff = 1 := by decide
theorem test_fdec : (run .fdec { at0 [] with ct := ctAabc, eff := 6, pk := [0x2C] }).dout = aabc := by decide
theorem test_pwr : (run .pwr { at0 [] with ct := ctAabc, eff := 6, pk := [0x2C] }).dout = frame35 := by decide
theorem test_pwr_eff : (run .pwr { at0 [] with eff := 0 }).status = 0x00000B06 := by decide
theorem test_prd : (run .prd { at0 [] with din := frame35 }).pk = [0x2C] ∧
    (run .prd { at0 [] with din := frame35 }).pos = 35 := by decide
theorem test_prd_length : (run .prd { at0 [] with din := [0x80, 0, 0, 0, 8, 0, 0, 0, 0] }).status = 0x00000C06 := by decide
-- V-CODEC-1: a bad unit is skipped; a missing entry of 65536 is not
theorem test_pskip : (run .pskip
    { at0 [] with din := [0, 0, 0, 0, 8, 0, 0, 0, 1, 0x41, 0, 0, 0, 1, 0, 0x32, 0, 0] }).pos = 16 := by decide
theorem test_pskip_truncated : (run .pskip { at0 [] with din := [0, 0, 0, 0, 8, 0, 1, 0, 0] }).status = 0x00000D03 := by
  decide
-- V-ENTRY-1
theorem test_ewr_dir : (run .ewrDir { at0 [] with name := sub }).dout = [0x00, 0x01, 0x46, 0x00, 0x03, 0x73, 0x75, 0x62] := by
  decide
theorem test_ewr_file : (run .ewrFile { at0 [] with name := nameA }).dout =
    [0x00, 0x02, 0x46, 0x49, 0x00, 0x01, 0x61, 0x00, 0x00, 0x00, 0x00, 0x08, 0x00, 0x00, 0x00, 0x00] := by decide
theorem test_erd_dir : (run .erd { at0 [] with din := [0x00, 0x01, 0x46, 0x00, 0x03, 0x73, 0x75, 0x62] }).name = sub := by
  decide
theorem test_erd_tag : (run .erd { at0 [] with din := [0x00, 0x01, 0x58, 0x00, 0x01, 0x61] }).status = 0x00000F06 := by
  decide
-- V-HDR-1
theorem test_hwr_fold : (run .hwrFold { at0 [] with name := root }).dout =
    [0x48, 0x46, 0x4F, 0x4C, 0x44, 0x00, 0x04, 0x72, 0x6F, 0x6F, 0x74] := by decide
theorem test_hwr_file : (run .hwrFile { at0 [] with name := tBin }).dout =
    [0x48, 0x46, 0x49, 0x4C, 0x45, 0x00, 0x05, 0x74, 0x2E, 0x62, 0x69, 0x6E] := by decide
theorem test_hrd_file : (run .hrdFile { at0 [] with din := archive47 }).pos = 12 := by decide
theorem test_hrd_fold_short : (run .hrdFold { at0 [] with din := [0x48, 0x46, 0x4F, 0x4C] }).status = 0x00001102 := by
  decide
-- V-OP-1, V-OP-2
theorem test_cfile : requests (run .cfile { at0 [(tBin, .file aabc)] with pin := tBin, pout := tHz }) =
    [.stat tBin, .read tBin, .read tBin, .create tHz, .append archive47, .close] := by decide
-- 20_memory.md R42: an archive of 47 bytes does not fit BUF_CAP 46, and no output is created
theorem test_cfile_full : requests (run .cfile
    { at0 [(tBin, .file aabc)] with pin := tBin, pout := tHz, params := ⟨46, 2, []⟩ }) =
    [.stat tBin, .read tBin, .read tBin] := by decide
-- U12: a link the host shows as nothing
theorem test_stat_link : ((hostWith [(tBin, .special aabc)]).reply (.stat tBin),
    (HostSide.mk [(tBin, .special aabc)] none [] [gone] false).reply (.stat tBin)) = (.file, .missing) := by decide
-- R57: MISSING may answer H_READ, OK may answer H_WRITEFILE of a directory (U24)
theorem test_read_missing : (HostSide.mk [(tBin, .file aabc)] none [] [gone] false).reply (.read tBin) = .missing := by
  decide
theorem test_write_over_dir : fsLookup ((hostWith [(tBin, .dir)]).after (.writeFile tBin aabc)).files tBin =
    some (.file aabc) := by decide
theorem test_dfile : requests (run .dfile { at0 [(tHz, .file archive47)] with pin := tHz, pdst := outDir }) =
    [.read tHz, .writeFile (outDir ++ [0x2F] ++ tBin) aabc] := by decide
/-- CFILE's state with the draws of its replies given. -/
def failing (ds : List Draw) : State :=
  { at0 [] with pin := tBin, pout := tHz, host := ⟨[(tBin, .file aabc)], none, [], ds, false⟩ }

/-- "root/sub" and "root.hz". -/
def rootSub : Bytes := root ++ [0x2F] ++ sub
def rootHz : Bytes := root ++ [0x2E, 0x68, 0x7A]

/-- V-SRC-2 without the file in `sub`: the directory `root` with the file "a" and the empty directory "sub". -/
def tree2 : FileSystem := [(root, .dir), (root ++ [0x2F] ++ nameA, .file aabc), (rootSub, .dir)]

/-- The folder archive of `tree2`. -/
def archiveTree2 : Bytes :=
  [0x48, 0x46, 0x4F, 0x4C, 0x44, 0x00, 0x04, 0x72, 0x6F, 0x6F, 0x74] ++
    [0x00, 0x02, 0x46, 0x49, 0x00, 0x01, 0x61] ++ frame35 ++ [0x00, 0x01, 0x46, 0x00, 0x03, 0x73, 0x75, 0x62]

theorem test_cdir : fsLookup (run .cdir { at0 tree2 with pin := root, pout := rootHz }).host.files rootHz =
    some (.file archiveTree2) := by decide
-- V-OP-6: WALK_DEPTH_MAX = 1, H_CLOSE is still issued
theorem test_cdir_depth : (run .cdir { at0 tree2 with pin := root, pout := rootHz, params := ⟨6000, 1, []⟩ }).status =
    0x00001A07 := by decide
theorem test_ddir : requests (run .ddir { at0 [(rootHz, .file archiveTree2)] with pin := rootHz, pdst := outDir }) =
    [.read rootHz, .mkdirs (outDir ++ [0x2F] ++ root), .writeFile (outDir ++ [0x2F] ++ root ++ [0x2F] ++ nameA) aabc,
      .mkdirs (outDir ++ [0x2F] ++ rootSub)] := by decide
theorem test_prev : (run .prev { at0 [(rootHz, .file archiveTree2)] with pin := rootHz }).pvw =
    [⟨0, nameA⟩, ⟨0, sub⟩] := by decide
-- V-OP-5: an archive cut inside an entry keeps the items before it
theorem test_prev_cut : (run .prev { at0 [(rootHz, .file (archiveTree2.take 57))] with pin := rootHz }).status =
    0x00001C03 := by decide

/-! ## Witnesses: for every statement with hypotheses, inputs that meet them; one for each clause. A table written in
descending byte order (`ctAabc.reverse`) is one the spec's readers accept. -/

/-- The frequencies of `aabc`. -/
def ftAabc : FreqTable := [(0x41, 2), (0x42, 1), (0x43, 1)]

/-- A chain: {41:"01", 42:"0"} is not prefix-free. -/
def ctClash : CodeTable := [(0x41, [false, true]), (0x42, [false])]

/-- The state with AABC's payload in CT, EFF and PK, BUF_CAP `n`. -/
def payload (n : BitVec 64) : State := { at0 [] with ct := ctAabc, eff := 6, pk := [0x2C], params := ⟨n, 2, []⟩ }

/-- AABC's frame with its table entries in descending order. -/
def frameDesc : Bytes := frameBytesWith ctAabc.reverse 6 [0x2C]

/-- A frame whose EFF, units and packed bytes no reader would accept. -/
def rawBad : RawFrame := ⟨0, [(0x41, [0x00, 0x32])], [0xFF]⟩

theorem witness_illegal_word : ∃ (w : Word) (s : State), legalWord w = false ∧ s.pending = .command w :=
  ⟨0x00000012, (at0 []).withCommand 0x00000012, by decide, by decide⟩
theorem witness_issued_command : ∃ (w : Word) (i : Instr) (s : State), decode w = some i ∧ s.pending = .command w :=
  ⟨0x0000010E, .ewrFile, (at0 []).withCommand 0x0000010E, by decide, by decide⟩

theorem witness_build_no_symbol : FtWf [] ∧ ∀ b, countOf [] b = 0 := ⟨by decide, fun _ => rfl⟩
theorem witness_build_one_symbol : FtWf [(0x41, 2)] ∧ ∀ c, 0 < countOf [(0x41, 2)] c ↔ c = 0x41 := by
  refine ⟨by decide, fun c => ?_⟩
  by_cases h : 0x41#8 = c
  · subst h
    decide
  · simp [countOf, mapGet, h, Ne.symm h]
theorem witness_ft : FtWf ftAabc := by decide
theorem witness_codes_inner : treeAabc.isLeaf = false := by decide
theorem witness_codes_leaf : (Tree.leaf 0x41).isLeaf = true := by decide
theorem witness_trie : CtWf ctAabc ∧ PrefixFree ctAabc := by decide
theorem witness_trie_empty : CtWf ([] : CodeTable) ∧ PrefixFree [] := by decide
theorem witness_trie_clash : CtWf ctClash ∧ ¬ PrefixFree ctClash := by decide
theorem witness_tser_fits : CtWf (payload 29).ct ∧
    (payload 29).dout.length + (tableBytes (payload 29).ct).length ≤ (payload 29).cap := by decide
theorem witness_tser_full : CtWf (payload 28).ct ∧
    (payload 28).cap < (payload 28).dout.length + (tableBytes (payload 28).ct).length := by decide
theorem witness_tdes : ∃ (s : State) (c : CodeTable) (l : List (Byte × Bits)) (pre r : Bytes), CtWf c ∧ l.Perm c ∧
    s.din = pre ++ tableBytes l ++ r ∧ s.pos = pre.length :=
  ⟨{ at0 [] with din := [0xFF] ++ tableBytes ctAabc.reverse ++ [0xEE], pos := 1 }, ctAabc, ctAabc.reverse, [0xFF], [0xEE],
    by decide, by decide, by decide, by decide⟩
-- 257 entries; 2 entries in 9 bytes; a table cut after 28 of its 29 bytes; POS past the end
theorem witness_tdes_counts : 257 < 2 ^ 32 ∧ 256 < 257 ∧ (List.replicate 9 (0 : Byte)).length < 5 * 2 ∧
    28 < (tableBytes ctAabc).length ∧ ({ at0 [] with pos := 1 }).din.length < ({ at0 [] with pos := 1 }).pos + 4 := by
  decide
/-- A second entry that is bad, after the good entry 0x41: "0". -/
def oneEntry : List (Byte × Bits) := [(0x41, [false])]
theorem witness_tdes_entry : CtWf oneEntry ∧ oneEntry.Perm oneEntry ∧ oneEntry.length < 2 ∧ 2 ≤ 256 ∧
    5 * 2 ≤ (oneEntry.flatMap codeEntryBytes ++ ([0x42] ++ u32 0)).length ∧
    5 * 2 ≤ (oneEntry.flatMap codeEntryBytes ++ ([0x42] ++ u32 256)).length ∧
    5 * 2 ≤ (oneEntry.flatMap codeEntryBytes ++ [0x42, 0x00, 0x00]).length := by decide
theorem witness_tdes_units : 5 * 2 ≤ (oneEntry.flatMap codeEntryBytes ++ ([0x42] ++ u32 1 ++ [0x00])).length ∧
    [0x00#8].length < 2 * 1 ∧ 2 * 1 ≤ (unitBytes [] ++ u16 0x32).length ∧ ([] : Bits).length < 1 ∧ 0x32 < 2 ^ 16 ∧
    (codeOf oneEntry 0x41).isSome = true := by decide
theorem witness_tdes_unit : (run .tdes { at0 [] with din := u32 1 ++ [0x41] ++ u32 1 ++ [0x00, 0x32] }).status = 0x00000606 := by
  decide
theorem witness_table_read : tdes (tableBytes ctAabc.reverse ++ [0xEE]) 0 = .ok (ctAabc, 29) := by decide
theorem witness_lengths_one : FtWf [(0x41, 2)] ∧ codesOf (buildTree [(0x41, 2)]) = .ok [(0x41, [false])] ∧
    presentCount [(0x41, 2)] = 1 := by decide
theorem witness_lengths_more : FtWf ftAabc ∧ codesOf (buildTree ftAabc) = .ok ctAabc ∧ 2 ≤ presentCount ftAabc := by decide

-- 8 code bits fit BUF_CAP 1, 9 do not
theorem witness_pack_fits : Covers ctAabc [0x41, 0x41, 0x42, 0x42, 0x43] ∧
    PackFits 1 ctAabc [0x41, 0x41, 0x42, 0x42, 0x43] := by decide
theorem witness_pack_full : Covers ctAabc [0x41, 0x41, 0x41, 0x42, 0x42, 0x43] ∧
    ¬ PackFits 1 ctAabc [0x41, 0x41, 0x41, 0x42, 0x42, 0x43] := by decide
theorem witness_pack_unknown : ¬ Covers ctAabc [0x44] := by decide
theorem witness_pack_ok : pack aabc ctAabc = .ok ([0x2C], 6) := by decide
/-- The leaf paths of `aabc`. -/
def pathsAabc : List (Byte × Bits) := [(0x41, [false]), (0x41, [false]), (0x42, [true, false]), (0x43, [true, true])]
theorem witness_unpack_fits : treeAabc.isLeaf = false ∧ (∀ e ∈ pathsAabc, e ∈ leafPaths treeAabc []) ∧
    PackedAs [0x2C] 6 (pathsAabc.flatMap Prod.snd) ∧
    (payload 4).dout.length + pathsAabc.length ≤ (payload 4).cap := by decide
theorem witness_unpack_full : (∀ e ∈ pathsAabc, e ∈ leafPaths treeAabc []) ∧
    PackedAs [0x2C] 6 (pathsAabc.flatMap Prod.snd) ∧
    (payload 3).cap < (payload 3).dout.length + pathsAabc.length := by decide
theorem witness_unpack_malformed : ¬ ∃ ps : List (Byte × Bits), (∀ e ∈ ps, e ∈ leafPaths treeAabc []) ∧
    PackedAs [0x2C] 9 (ps.flatMap Prod.snd) := by
  rintro ⟨ps, -, h, -⟩
  exact absurd h (by decide)
theorem witness_pack_then_unpack : codesOf (buildTree (freqOf aabc)) = .ok ctAabc ∧ toTrie ctAabc = .ok treeAabc ∧
    pack aabc ctAabc = .ok ([0x2C], 6) := by decide

theorem witness_fenc_fits : PackFits 1 ctAabc aabc := by decide
theorem witness_fenc_full : ¬ PackFits 0 ctAabc aabc := by decide
theorem witness_fdec_fits : CtWf (payload 4).ct ∧ PrefixFree (payload 4).ct ∧ Covers (payload 4).ct aabc ∧
    PackedAs (payload 4).pk (payload 4).eff (bitsOf (payload 4).ct aabc) ∧
    (payload 4).dout.length + aabc.length ≤ (payload 4).cap := by decide
theorem witness_fdec_full : (payload 3).cap < (payload 3).dout.length + aabc.length := by decide
theorem witness_fdec_clash : CtWf ctClash ∧ ¬ PrefixFree ctClash := by decide
theorem witness_fdec_malformed : ¬ ∃ d : Bytes, Covers ctAabc d ∧ PackedAs [0x2C] 0 (bitsOf ctAabc d) := by
  rintro ⟨d, -, h, -⟩
  exact absurd h (by decide)
/-- FENC, PWR and PRD in turn. -/
def fencState : State := run .fenc { at0 [] with din := aabc }
def pwrState : State := run .pwr fencState
def prdInput : State := { pwrState with din := pwrState.dout, pos := fencState.dout.length }
theorem witness_fenc_fdec : exec .fenc { at0 [] with din := aabc } = .next fencState ∧ fencState.err = 0 ∧
    fencState.dout.length + fencState.din.length ≤ fencState.cap := ⟨rfl, by decide, by decide⟩
theorem witness_fenc_frame : exec .pwr fencState = .next pwrState ∧ pwrState.err = 0 ∧
    exec .prd prdInput = .next (run .prd prdInput) ∧
    (run .prd prdInput).dout.length + aabc.length ≤ (run .prd prdInput).cap := ⟨rfl, by decide, rfl, by decide⟩
theorem witness_pwr_fits : CtWf (payload 35).ct ∧ validEff (payload 35).eff = true ∧
    (payload 35).pk.length ≤ Config.maxField ∧
    (payload 35).dout.length + (frameBytesWith (payload 35).ct (payload 35).eff (payload 35).pk).length ≤
      (payload 35).cap := by decide
theorem witness_pwr_full : validEff (payload 34).eff = true ∧
    (payload 34).cap < (payload 34).dout.length +
      (frameBytesWith (payload 34).ct (payload 34).eff (payload 34).pk).length := by decide
theorem witness_pwr_eff : validEff 0 = false ∧ validEff 9 = false := by decide
theorem witness_prd_length : Config.maxField < 2147483648 ∧ 2147483648 < 2 ^ 32 := by decide
theorem witness_prd_cut : FrameWf fAabc ∧ ctAabc.reverse.Perm fAabc.table ∧
    34 < (frameBytesWith ctAabc.reverse fAabc.eff fAabc.packed).length := by decide
theorem witness_prd_table : ∃ (s : State) (len : Nat) (e : Byte) (pre r : Bytes) (err : Err), len ≤ Config.maxField ∧
    validEff e = true ∧ s.din = pre ++ u32 len ++ [e] ++ r ∧ s.pos = pre.length ∧
    exec .tdes (s.setPos (pre.length + 5)) = .next ((s.setPos (pre.length + 5)).abort 0x06#8 err) :=
  ⟨{ at0 [] with din := [0xAA] ++ u32 0 ++ [8] ++ u32 257, pos := 1 }, 0, 8, [0xAA], u32 257, .malformed,
    by decide, by decide, by decide, by decide, rfl⟩
theorem witness_prd : ∃ (s : State) (f : Frame) (l : List (Byte × Bits)) (pre r : Bytes), FrameWf f ∧ l.Perm f.table ∧
    s.din = pre ++ frameBytesWith l f.eff f.packed ++ r ∧ s.pos = pre.length :=
  ⟨{ at0 [] with din := [0xFF] ++ frameDesc ++ [0xEE], pos := 1 }, fAabc, ctAabc.reverse, [0xFF], [0xEE],
    by decide, by decide, by decide, by decide⟩
theorem witness_pskip : ∃ (s : State) (f : RawFrame) (pre r : Bytes), f.Fits ∧ s.din = pre ++ rawFrameBytes f ++ r ∧
    s.pos = pre.length :=
  ⟨{ at0 [] with din := [0xAA] ++ rawFrameBytes rawBad ++ [0xBB], pos := 1 }, rawBad, [0xAA], [0xBB],
    by decide, by decide, by decide⟩
theorem witness_pskip_cut : rawBad.Fits ∧ 16 < (rawFrameBytes rawBad).length := by decide
theorem witness_frame : FrameWf fAabc := by decide

/-- AABC's payload with NAME "a", BUF_CAP `n`. -/
def named (n : BitVec 64) : State := { payload n with name := nameA }
theorem witness_ewr_dir : (named 6).name.length ≤ Config.maxStr ∧
    (named 6).dout.length + (dirBytes (named 6).name).length ≤ (named 6).cap := by decide
theorem witness_ewr_dir_full : (named 5).cap < (named 5).dout.length + (dirBytes (named 5).name).length := by decide
theorem witness_ewr_file : FrameWf ⟨(named 42).ct, (named 42).eff, (named 42).pk⟩ ∧
    (named 42).dout.length + (fileBytes (named 42).name ⟨(named 42).ct, (named 42).eff, (named 42).pk⟩).length ≤
      (named 42).cap := by decide
theorem witness_ewr_file_eff : validEff ({ named 42 with eff := 9 }).eff = false := by decide
theorem witness_ewr_file_full : CtWf (named 41).ct ∧ validEff (named 41).eff = true ∧
    (named 41).cap < (named 41).dout.length +
      (fileBytes (named 41).name ⟨(named 41).ct, (named 41).eff, (named 41).pk⟩).length := by decide
theorem witness_erd_end : (at0 []).pos = (at0 []).din.length := by decide
theorem witness_erd_past : ({ at0 [] with pos := 1 }).din.length < ({ at0 [] with pos := 1 }).pos := by decide
theorem witness_erd_dir : ∃ (s : State) (q pre r : Bytes), q.length ≤ Config.maxStr ∧ s.din = pre ++ dirBytes q ++ r ∧
    s.pos = pre.length :=
  ⟨{ at0 [] with din := [0xAA] ++ dirBytes sub ++ [0xBB], pos := 1 }, sub, [0xAA], [0xBB], by decide, by decide, by decide⟩
theorem witness_erd_file : ∃ (s : State) (q : Bytes) (f : Frame) (l : List (Byte × Bits)) (pre r : Bytes),
    q.length ≤ Config.maxStr ∧ FrameWf f ∧ l.Perm f.table ∧
    s.din = pre ++ [0x00#8, 0x02#8, 0x46#8, 0x49#8] ++ strBytes q ++ frameBytesWith l f.eff f.packed ++ r ∧
    s.pos = pre.length :=
  ⟨{ at0 [] with din := [0xAA, 0x00, 0x02, 0x46, 0x49] ++ strBytes nameA ++ frameDesc ++ [0xBB], pos := 1 }, nameA, fAabc,
    ctAabc.reverse, [0xAA], [0xBB], by decide, by decide, by decide, by decide, by decide⟩
theorem witness_erd_frame : ∃ (s : State) (q pre r : Bytes) (err : Err), q.length ≤ Config.maxStr ∧
    s.din = pre ++ [0x00#8, 0x02#8, 0x46#8, 0x49#8] ++ strBytes q ++ r ∧ s.pos = pre.length ∧
    exec .prd (s.setPos (pre.length + 6 + q.length)) =
      .next ((s.setPos (pre.length + 6 + q.length)).abort 0x0C#8 err) :=
  ⟨{ at0 [] with din := [0xAA, 0x00, 0x02, 0x46, 0x49] ++ strBytes nameA ++ u32 0 ++ [9], pos := 1 }, nameA, [0xAA],
    u32 0 ++ [9], .malformed, by decide, by decide, by decide, rfl⟩
theorem witness_erd_cut : nameA.length ≤ Config.maxStr ∧ FrameWf fAabc ∧ 5 < (dirBytes nameA).length ∧
    41 < (fileBytes nameA fAabc).length := by decide
theorem witness_erd_tag : ∃ (s : State) (tag pre r : Bytes), tag.length ≤ Config.maxStr ∧ tag ≠ [0x46#8] ∧
    tag ≠ [0x46#8, 0x49#8] ∧ s.din = pre ++ strBytes tag ++ r ∧ s.pos = pre.length :=
  ⟨{ at0 [] with din := [0xAA, 0x00, 0x00, 0xBB], pos := 1 }, [], [0xAA], [0xBB],
    by decide, by decide, by decide, by decide, by decide⟩
theorem witness_entries : ∀ e ∈ [Entry.dir sub, Entry.file nameA fAabc], EntryFits e := by
  intro e he
  simp only [List.mem_cons, List.not_mem_nil, or_false] at he
  rcases he with rfl | rfl
  · exact (by decide : sub.length ≤ Config.maxStr)
  · exact (by decide : nameA.length ≤ Config.maxStr ∧ FrameWf fAabc)
theorem witness_hwr_fits : (named 8).name.length ≤ Config.maxStr ∧
    (named 8).dout.length + (7 + (named 8).name.length) ≤ (named 8).cap := by decide
theorem witness_hwr_full : (named 7).cap < (named 7).dout.length + (7 + (named 7).name.length) := by decide
theorem witness_hrd : ∃ (s : State) (name pre r : Bytes), name.length ≤ Config.maxStr ∧
    s.din = pre ++ headerBytes true name ++ r ∧ s.pos = pre.length :=
  ⟨{ at0 [] with din := [0xAA] ++ headerBytes true root ++ [0xBB], pos := 1 }, root, [0xAA], [0xBB],
    by decide, by decide, by decide⟩
theorem witness_hrd_other : (archive47.drop 0).take 5 ≠ (headerBytes true []).take 5 := by decide
theorem witness_hrd_short : ((archive47.take 4).drop 0).take 5 ≠ (headerBytes false []).take 5 := by decide
theorem witness_hrd_cut : ∃ (s : State) (name pre : Bytes) (k : Nat), name.length ≤ Config.maxStr ∧ k < 2 + name.length ∧
    s.din = pre ++ (headerBytes true name).take (5 + k) ∧ s.pos = pre.length :=
  ⟨{ at0 [] with din := [0xAA] ++ (headerBytes true root).take 10, pos := 1 }, root, [0xAA], 5,
    by decide, by decide, by decide, by decide⟩

/-- CFILE's state; DFILE's on what it wrote. -/
def cfileState : State := { at0 [(tBin, .file aabc)] with pin := tBin, pout := tHz }
def cfileDone : State := run .cfile cfileState
def dfileNext : State := { at0 [] with host := ⟨cfileDone.host.files, none, [], [good, good], false⟩, pin := tHz, pdst := outDir }
theorem witness_cfile : Quiet 6 cfileState.host ∧ fsLookup cfileState.host.files cfileState.pin = some (.file aabc) ∧
    validName (lastSeg cfileState.pin) = true ∧ (lastSeg cfileState.pin).length ≤ Config.maxStr ∧
    codesOf (buildTree (freqOf aabc)) = .ok ctAabc ∧ PackFits cfileState.cap ctAabc aabc ∧
    tHz = (if cfileState.pout = [] then cfileState.pin ++ cfileState.params.archiveExt else cfileState.pout) ∧
    7 + (lastSeg cfileState.pin).length + frameLength ctAabc (bitsOf ctAabc aabc).length ≤ cfileState.cap := by decide
theorem witness_cfile_full : ¬ PackFits 0 ctAabc aabc ∧ PackFits 46 ctAabc aabc ∧
    46 < 7 + tBin.length + frameLength ctAabc (bitsOf ctAabc aabc).length := by decide
/-- DFILE's state. -/
def dfileState : State := { at0 [(tHz, .file archive47)] with pin := tHz, pdst := outDir }
theorem witness_dfile : Quiet 2 dfileState.host ∧
    fsLookup dfileState.host.files dfileState.pin = some (.file (headerBytes false tBin ++ frameBytes fAabc)) ∧
    (headerBytes false tBin ++ frameBytes fAabc).length ≤ dfileState.cap ∧
    validName tBin = true ∧ tBin.length ≤ Config.maxStr ∧ Decodes fAabc aabc ∧ aabc.length ≤ dfileState.cap := by decide
theorem witness_cfile_dfile : cfileState.host.mayChange = false ∧
    fsLookup cfileState.host.files cfileState.pin = some (.file aabc) ∧ exec .cfile cfileState = .next cfileDone ∧
    cfileDone.err = 0 ∧ dfileNext.host.files = cfileDone.host.files ∧ dfileNext.host.mayChange = false ∧
    dfileNext.host.draw.fail = false ∧ dfileNext.host.draw.view ≠ .missing ∧
    dfileNext.pin = (if cfileState.pout = [] then cfileState.pin ++ cfileState.params.archiveExt else cfileState.pout) ∧
    aabc.length ≤ dfileNext.cap ∧
    ∀ a, fsLookup dfileNext.host.files dfileNext.pin = some (.file a) → a.length ≤ dfileNext.cap := by
  refine ⟨by decide, by decide, rfl, by decide, by decide, by decide, by decide, by decide, by decide, by decide, fun a ha => ?_⟩
  have h : fsLookup dfileNext.host.files dfileNext.pin = some (.file archive47) := by decide
  rw [h] at ha
  cases ha
  decide

/-- CDIR's state on `tree2`; DDIR's on what it wrote; their entries and frames. -/
def cdirState : State := { at0 tree2 with pin := root, pout := rootHz }
def cdirDone : State := run .cdir cdirState
def ddirNext : State :=
  { at0 [] with host := ⟨cdirDone.host.files, none, [], List.replicate 6 good, false⟩, pin := rootHz, pdst := outDir }
def entries2 : List (Bytes × Option Bytes) := [(nameA, some aabc), (sub, none)]
def frames2 : Bytes → Frame := fun _ => fAabc
def walk2 : List HostReq :=
  [.list root, .stat (join root nameA), .read (join root nameA), .read (join root nameA), .append (fileBytes nameA fAabc),
    .stat rootSub, .append (dirBytes sub), .list rootSub]
theorem witness_cdir_state : fsLookup cdirState.host.files cdirState.pin = some .dir ∧
    validName (lastSeg cdirState.pin) = true ∧ (lastSeg cdirState.pin).length ≤ Config.maxStr ∧
    (headerBytes true (lastSeg cdirState.pin)).length ≤ cdirState.cap ∧
    rootHz = (if cdirState.pout = [] then cdirState.pin ++ cdirState.params.archiveExt else cdirState.pout) ∧
    descendant rootHz cdirState.pin = false ∧ Quiet (4 + walk2.length) cdirState.host := by decide
theorem witness_cdir_entries :
    treeEntries cdirState.params.walkDepthMax cdirState.host.files cdirState.pin [] = some entries2 ∧
    (∀ e ∈ entries2, e.1.length ≤ Config.maxStr ∧ (walkEntryBytes frames2 e).length ≤ cdirState.cap) ∧
    treeRequests frames2 cdirState.params.walkDepthMax cdirState.host.files cdirState.pin [] = some walk2 := by decide
theorem witness_frame_of : FrameOf 6000 frames2 aabc := by decide
-- V-OP-6: WALK_DEPTH_MAX = 1
def cdirDeep : State := { cdirState with params := ⟨6000, 1, []⟩ }
def walkDeep : List HostReq :=
  [.list root, .stat (join root nameA), .read (join root nameA), .read (join root nameA), .append (fileBytes nameA fAabc),
    .stat rootSub, .append (dirBytes sub)]
theorem tree2_lookup {p : Bytes} {n : FsNode} (h : fsLookup cdirDeep.host.files p = some n) :
    (p = root ∧ n = .dir) ∨ (p = join root nameA ∧ n = .file aabc) ∨ (p = rootSub ∧ n = .dir) := by
  have hf : cdirDeep.host.files = [(root, .dir), (join root nameA, .file aabc), (rootSub, .dir)] := by decide
  rw [hf] at h
  simp only [fsLookup] at h
  split at h
  · next hp => cases h; exact .inl ⟨hp.symm, rfl⟩
  · split at h
    · next hp => cases h; exact .inr (.inl ⟨hp.symm, rfl⟩)
    · split at h
      · next hp => cases h; exact .inr (.inr ⟨hp.symm, rfl⟩)
      · cases h
theorem witness_cdir_deep : ∃ (s : State) (out : Bytes) (frame : Bytes → Frame) (qs : List HostReq),
    fsLookup s.host.files s.pin = some .dir ∧ validName (lastSeg s.pin) = true ∧
    (lastSeg s.pin).length ≤ Config.maxStr ∧ (headerBytes true (lastSeg s.pin)).length ≤ s.cap ∧
    out = (if s.pout = [] then s.pin ++ s.params.archiveExt else s.pout) ∧ descendant out s.pin = false ∧
    walkRequests frame s.params.walkDepthMax s.host.files s.pin [] = (qs, false) ∧
    (∀ p c, fsLookup s.host.files p ≠ some (.special c)) ∧
    (∀ p, (fsLookup s.host.files p).isSome = true → p.length ≤ Config.maxStr ∧ (dirBytes p).length ≤ s.cap) ∧
    (∀ p d, fsLookup s.host.files p = some (.file d) → FrameOf s.cap frame d ∧ (fileBytes p (frame d)).length ≤ s.cap) ∧
    Quiet (4 + qs.length) s.host := by
  refine ⟨cdirDeep, rootHz, frames2, walkDeep, by decide, by decide, by decide, by decide, by decide, by decide,
    by decide, fun p c h => ?_, fun p h => ?_, fun p d h => ?_, by decide⟩
  · rcases tree2_lookup h with ⟨-, h⟩ | ⟨-, h⟩ | ⟨-, h⟩ <;> cases h
  · obtain ⟨n, hn⟩ := Option.isSome_iff_exists.1 h
    rcases tree2_lookup hn with ⟨rfl, -⟩ | ⟨rfl, -⟩ | ⟨rfl, -⟩ <;> decide
  · rcases tree2_lookup h with ⟨-, h⟩ | ⟨rfl, h⟩ | ⟨-, h⟩
    · cases h
    · cases h
      exact ⟨witness_frame_of, by decide⟩
    · cases h
theorem witness_cdir_frames : ∀ e ∈ entries2, ∀ d, e.2 = some d → FrameOf cdirState.cap frames2 d := by
  intro e he d hd
  simp only [entries2, List.mem_cons, List.not_mem_nil, or_false] at he
  rcases he with rfl | rfl
  · cases hd
    exact witness_frame_of
  · cases hd
/-- DDIR's state on the archive of `tree2`. -/
def ddirState : State := { at0 [(rootHz, .file archiveTree2)] with pin := rootHz, pdst := outDir }
def ddirRequests : List HostReq := .mkdirs (join outDir root) :: entries2.flatMap (entryRequests (join outDir root))
theorem witness_ddir_state : fsLookup ddirState.host.files ddirState.pin =
      some (.file (headerBytes true root ++ entriesBytes frames2 entries2)) ∧
    (headerBytes true root ++ entriesBytes frames2 entries2).length ≤ ddirState.cap ∧
    validName root = true ∧ root.length ≤ Config.maxStr ∧ join outDir root = join ddirState.pdst root ∧
    (∀ e ∈ entries2, validPath e.1 = true ∧ e.1.length ≤ Config.maxStr) ∧
    Quiet (1 + ddirRequests.length) ddirState.host := by decide
theorem witness_ddir_frames : ∀ e ∈ entries2, ∀ d, e.2 = some d → Decodes (frames2 d) d ∧ d.length ≤ ddirState.cap := by
  intro e he d hd
  simp only [entries2, List.mem_cons, List.not_mem_nil, or_false] at he
  rcases he with rfl | rfl
  · cases hd
    decide
  · cases hd
theorem witness_ddir_untouched : ∀ q ∈ ddirRequests, rootHz ∉ touched q := by decide
theorem witness_cdir_ddir : cdirState.host.mayChange = false ∧ exec .cdir cdirState = .next cdirDone ∧ cdirDone.err = 0 ∧
    ddirNext.host.files = cdirDone.host.files ∧ ddirNext.pin = rootHz ∧
    join outDir root = join ddirNext.pdst (lastSeg cdirState.pin) ∧
    Quiet (2 + (entries2.flatMap (entryRequests (join outDir root))).length) ddirNext.host :=
  ⟨by decide, rfl, by decide, by decide, by decide, by decide, by decide⟩
theorem witness_cdir_ddir_rest : (∀ e ∈ entries2, ∀ d, e.2 = some d → d.length ≤ ddirNext.cap) ∧
    ∀ a, fsLookup ddirNext.host.files rootHz = some (.file a) → a.length ≤ ddirNext.cap := by
  refine ⟨fun e he d hd => (witness_ddir_frames e he d hd).2, fun a ha => ?_⟩
  have h : fsLookup ddirNext.host.files rootHz = some (.file archiveTree2) := by decide
  rw [h] at ha
  cases ha
  decide
/-- The archive of `tree2` with an entry of an invalid path, ".", after it. -/
def archiveDot : Bytes := headerBytes true root ++ entriesBytes frames2 entries2 ++ dirBytes [0x2E]
def ddirDot : State := { at0 [(rootHz, .file archiveDot)] with pin := rootHz, pdst := outDir }
theorem witness_ddir_entry_fails : fsLookup ddirDot.host.files ddirDot.pin = some (.file archiveDot) ∧
    archiveDot.length ≤ ddirDot.cap ∧ join outDir root = join ddirDot.pdst root ∧
    entryError ddirDot.cap archiveDot (archiveDot.length - (dirBytes [0x2E]).length) = some .malformed ∧
    Quiet (1 + ddirRequests.length) ddirDot.host := by decide

/-- A folder archive with a payload no codec accepts, and PREV's state on it. -/
def rawEntries : List (Bytes × Option RawFrame) := [(sub, none), (sub ++ [0x2F] ++ nameA, some rawBad)]
def prevState : State :=
  { at0 [(rootHz, .file (headerBytes true root ++ rawEntries.flatMap rawEntryBytes))] with pin := rootHz }
theorem witness_raw_entries : ∀ e ∈ rawEntries, e.1.length ≤ Config.maxStr ∧ ∀ f, e.2 = some f → f.Fits := by
  intro e he
  simp only [rawEntries, List.mem_cons, List.not_mem_nil, or_false] at he
  rcases he with rfl | rfl
  · exact ⟨by decide, fun f hf => by cases hf⟩
  · refine ⟨by decide, fun f hf => ?_⟩
    cases hf
    decide
theorem witness_prev : Quiet 1 prevState.host ∧ root.length ≤ Config.maxStr ∧
    fsLookup prevState.host.files prevState.pin =
      some (.file (headerBytes true root ++ rawEntries.flatMap rawEntryBytes)) ∧
    (headerBytes true root ++ rawEntries.flatMap rawEntryBytes).length ≤ prevState.cap := by decide
/-- PREV's state with BUF_CAP `n` on the given files, and an archive whose last entry is cut short. -/
def prevOf (fs : FileSystem) (n : Nat) : State := { at0 fs with pin := rootHz, params := ⟨BitVec.ofNat 64 n, 9, []⟩ }
def prevCut : Bytes := headerBytes true root ++ rawEntries.flatMap rawEntryBytes ++ [0x00]
theorem witness_prev_no_file : (prevOf [] 46).host.reply (.read (prevOf [] 46).pin) = .missing := by decide
theorem witness_prev_ioFail : ({ prevState with host := ⟨[], none, [], [bad 0], false⟩ }).host.reply
    (.read prevState.pin) = .ioFail := by decide
-- 47 bytes and BUF_CAP 46 and 47
theorem witness_prev_long : (prevOf [(rootHz, .file archive47)] 46).host.reply (.read rootHz) = .data archive47 ∧
    (prevOf [(rootHz, .file archive47)] 46).cap < archive47.length := by decide
theorem witness_prev_header : (prevOf [(rootHz, .file archive47)] 47).host.reply (.read rootHz) = .data archive47 ∧
    archive47.length ≤ (prevOf [(rootHz, .file archive47)] 47).cap ∧
    headerRead archive47 0 true = .error .unrecognizedFormat := by decide
theorem witness_prev_entry : (prevOf [(rootHz, .file prevCut)] 6000).host.reply (.read rootHz) = .data prevCut ∧
    prevCut.length ≤ (prevOf [(rootHz, .file prevCut)] 6000).cap ∧ root.length ≤ Config.maxStr ∧
    entrySkip prevCut (prevCut.length - [0x00#8].length) = .error .truncatedStream := by decide
theorem witness_check_io : (HostSide.mk [] none [] [bad 0] false).reply (.stat tBin) = .ioFail := by decide
theorem witness_check_missing : (hostWith []).reply (.stat tBin) = .missing := by decide
theorem witness_check_kinds : (hostWith tree2).reply (.stat root) = .dir ∧
    (hostWith tree2).reply (.stat (join root nameA)) = .file := by decide
theorem witness_check_name : validName (lastSeg [0x2E, 0x2E]) = false ∧
    (hostWith [([0x2E, 0x2E], .dir)]).reply (.stat [0x2E, 0x2E]) ≠ .ioFail := by decide
/-- DDIR's state on a single-file archive. -/
def wrongKind : State := { at0 [(tHz, .file archive47)] with pin := tHz }
theorem witness_read_archive : wrongKind.host.reply (.read wrongKind.pin) = .data archive47 ∧
    archive47.length ≤ wrongKind.cap ∧ openFolder archive47 = .error .unrecognizedFormat ∧
    archive47.take 5 ≠ (headerBytes true []).take 5 := by decide
/-- V-OP-6: trailing bytes; the name `../a`; the legacy layout, whose frame fails. -/
def badArchives : List Bytes :=
  [archive47 ++ [0x00], headerBytes false [0x2E, 0x2E, 0x2F, 0x61] ++ frameBytes ⟨[], 8, []⟩,
    headerBytes false tBin ++ table29 ++ [0x2C]]
theorem witness_bad_archives : badArchives.map (fun a => match openFileArchive 6000 a with
      | .error e => some e
      | .ok _ => none) = [some .malformed, some .malformed, some .malformed] ∧
    validName [0x2E, 0x2E, 0x2F, 0x61] = false ∧ FrameWf ⟨[], 8, []⟩ ∧ validName tBin = true ∧
    archive47 ++ [0x00] = headerBytes false tBin ++ frameBytes fAabc ++ [0x00] ∧
    frameRead (headerBytes false tBin ++ table29 ++ [0x2C]) (7 + tBin.length) = .error .malformed := by decide
theorem witness_folder_signature : (headerBytes true root).take 5 ≠ (headerBytes false []).take 5 := by decide
theorem witness_wrong_kind : exec .ddir wrongKind = .next (run .ddir wrongKind) ∧ (run .ddir wrongKind).err = 2 :=
  ⟨rfl, by decide⟩
theorem witness_archive_opened : cfileState.host.archive = none ∧ exec .cfile cfileState = .next cfileDone ∧
    ∃ new, cfileDone.host.trace = cfileState.host.trace ++ new ∧ ∃ p, (HostReq.create p, HostReply.ok) ∈ new :=
  ⟨by decide, rfl, cfileDone.host.trace, by decide, tHz, by decide⟩
-- V-OP-6: H_CREATE fails, no H_CLOSE
theorem witness_archive_not_opened : (failing [good, good, good, bad 0]).host.archive = none ∧
    ∀ x ∈ (run .cfile (failing [good, good, good, bad 0])).host.trace, x.2 ≠ .ok := by decide

/-- CDIR's state on `tree2` with the draws of its replies given; a link `l` in place of the file, and a changed file. -/
def cdirWith (fs : FileSystem) (ds : List Draw) (may : Bool) : State :=
  { at0 [] with pin := root, pout := rootHz, host := ⟨fsCanon fs, none, [], ds, may⟩ }
def linkTree : FileSystem := [(root, .dir), (root ++ [0x2F] ++ nameA, .special aabc)]
/-- The host puts byte 44 into the file before the second read. -/
def changed : Draw := ⟨some [(root, .dir), (root ++ [0x2F] ++ nameA, .file [0x44])], false, none, [], none, .file⟩
-- V-OP-6: a vanished child, and H_APPEND of an entry failing
theorem witness_cdir_vanished : ∃ a b p, (run .cdir (cdirWith linkTree [good, good, good, good, gone, good] false)).host.trace =
    a ++ (.stat p, .missing) :: b ∧ ∃ o, (HostReq.create o, HostReply.ok) ∈ a :=
  ⟨[(.stat root, .dir), (.create rootHz, .ok), (.append (headerBytes true root), .ok), (.list root, .names [nameA])],
    [(.close, .ok)], join root nameA, by decide, rootHz, by decide⟩
theorem witness_cdir_ioFail : ∃ a b q, (run .cdir (cdirWith tree2 [good, good, bad 0, good] false)).host.trace =
    a ++ (.append q, .ioFail) :: b ∧ ∃ o, (HostReq.create o, HostReply.ok) ∈ a :=
  ⟨[(.stat root, .dir), (.create rootHz, .ok)], [(.close, .ok)], headerBytes true root, by decide, rootHz, by decide⟩
theorem witness_cdir_not_opened : (run .cdir (cdirWith tree2 [bad 0] false)).host.trace =
    [] ++ (.stat root, .ioFail) :: [] := by decide
theorem witness_cdir_unknown : ∃ a b p d1 d2, (run .cdir (cdirWith tree2 [good, good, good, good, good, good, changed, good]
      true)).host.trace = a ++ (.read p, .data d2) :: b ∧ a.getLast? = some (.read p, .data d1) ∧
    (0x44 : Byte) ∈ d2 ∧ (0x44 : Byte) ∉ d1 :=
  ⟨[(.stat root, .dir), (.create rootHz, .ok), (.append (headerBytes true root), .ok), (.list root, .names [nameA, sub]),
      (.stat (join root nameA), .file), (.read (join root nameA), .data aabc)], [(.close, .ok)], join root nameA, aabc,
    [0x44], by decide, by decide, by decide, by decide⟩

-- IOFAIL and MISSING of CFILE, DFILE and DDIR
theorem witness_cfile_ioFail : ∃ a b q, (run .cfile (failing [good, good, good, good, bad 2, good])).host.trace =
    a ++ (.append q, .ioFail) :: b ∧ ∃ o, (HostReq.create o, HostReply.ok) ∈ a :=
  ⟨[(.stat tBin, .file), (.read tBin, .data aabc), (.read tBin, .data aabc), (.create tHz, .ok)], [(.close, .ok)],
    archive47, by decide, tHz, by decide⟩
theorem witness_cfile_close : ∃ a, (run .cfile (failing [good, good, good, good, good, bad 0])).host.trace =
    a ++ (.close, .ioFail) :: [] :=
  ⟨[(.stat tBin, .file), (.read tBin, .data aabc), (.read tBin, .data aabc), (.create tHz, .ok),
    (.append archive47, .ok)], by decide⟩
theorem witness_dfile_ioFail : ∃ q, (run .dfile { dfileState with host :=
      { dfileState.host with draws := [good, bad 1] } }).host.trace =
    [(.read dfileState.pin, .data archive47)] ++ (q, .ioFail) :: [] :=
  ⟨.writeFile (join dfileState.pdst tBin) aabc, by decide⟩
theorem witness_ddir_ioFail : (run .ddir { ddirState with host := { ddirState.host with draws := [good, bad 0] } }).host.trace =
    [(.read rootHz, .data archiveTree2)] ++ (.mkdirs (join outDir root), .ioFail) :: [] := by decide
theorem witness_ddir_missing : (run .ddir (at0 [])).host.trace = [] ++ (.read [], .missing) :: [] := by decide

theorem witness_error_primitive : exec .pwr { at0 [] with eff := 0 } = .next (run .pwr { at0 [] with eff := 0 }) ∧
    (run .pwr { at0 [] with eff := 0 }).err ≠ 0 ∧ primitive .pwr = true := ⟨rfl, by decide, by decide⟩
theorem witness_error_prev : exec .prev (at0 []) = .next (run .prev (at0 [])) ∧ (run .prev (at0 [])).err ≠ 0 :=
  ⟨rfl, by decide⟩
theorem witness_next : exec .fenc { at0 [] with din := aabc } = .next fencState ∧ fencState.eff ≠ (at0 []).eff :=
  ⟨rfl, by decide⟩
theorem witness_host_write : (at0 []).hostWrite 9 (.byte 0) = some { at0 [] with eff := 0 } ∧
    (at0 []).hostWrite 1 (.word 7) = some (at0 []) ∧ (at0 []).hostWrite 16 (.byte 1) = some (at0 []) := by decide
-- a buffer of BUF_CAP bytes fits and one of a byte more does not; POS at 2^64; values of the wrong type; a doubled SEP
theorem witness_fits : FitsRegister 4 2 (.bytes aabc) ∧ FitsRegister 4 4 (.nat (2 ^ 64 - 1)) ∧
    FitsRegister 4 5 (.freqs ftAabc) ∧ FitsRegister 4 7 (.table ctAabc) ∧ FitsRegister 4 9 (.byte 0) ∧
    FitsRegister 4 12 (.bytes [0x61, 0x2F]) ∧ FitsRegister 4 14 (.bytes rootSub) := by
  refine ⟨.inl ⟨by decide, aabc, rfl, by decide⟩, .inr (.inl ⟨rfl, _, rfl, by decide⟩),
    .inr (.inr (.inl ⟨rfl, _, rfl, by decide⟩)), .inr (.inr (.inr (.inl ⟨rfl, _, rfl, by decide⟩))),
    .inr (.inr (.inr (.inr (.inl ⟨rfl, _, rfl⟩)))), .inr (.inr (.inr (.inr (.inr (.inr (.inl ⟨rfl, _, rfl, by decide⟩)))))),
    .inr (.inr (.inr (.inr (.inr (.inr (.inr ⟨by decide, _, rfl, by decide⟩))))))⟩
theorem witness_not_fits : ¬ FitsRegister 3 2 (.bytes aabc) ∧ ¬ FitsRegister 3 4 (.nat (2 ^ 64)) ∧
    ¬ FitsRegister 3 5 (.freqs [(0x41, 0)]) ∧ ¬ FitsRegister 3 9 (.word 1) ∧
    ¬ FitsRegister 3 13 (.bytes [0x61, 0x2F, 0x2F, 0x62]) := by
  refine ⟨?_, ?_, ?_, ?_, ?_⟩
  · simp [FitsRegister, aabc]
  · simp [FitsRegister]
  · simp [FitsRegister]
  · simp [FitsRegister]
  · simp [FitsRegister]
    decide
theorem witness_tx : (at0 []).tx = [] ∧ ({ at0 [] with tx := [.reset] }).tx = .reset :: [] := by decide
theorem witness_reset_state : at0 [] = State.resetWith (at0 []).params (at0 []).host (at0 []).tx (at0 []).readout ∧
    9 ≤ (at0 []).cap := by decide
theorem witness_inv : (at0 tree2).Inv :=
  ⟨by decide, by decide, by decide, by decide, by decide, by decide, by decide, by decide, by decide⟩
theorem witness_inv_step : step ((at0 tree2).withCommand 0x00000009) = .next (step1 ((at0 tree2).withCommand 0x00000009)) :=
  rfl
theorem witness_list : (hostWith tree2).reply (.list root) = .names [nameA, sub] := by decide
/-- An open archive of AABC's bytes whose next append fails after 2 bytes. -/
def openArchive : HostSide := ⟨[(tHz, .file aabc)], some tHz, [], [bad 2], false⟩
theorem witness_append : openArchive.archive = some tHz ∧ openArchive.mayChange = false ∧
    fsLookup openArchive.files tHz = some (.file aabc) ∧ openArchive.reply (.append root) = .ioFail := by decide
/-- The same host with no archive open. -/
def failNext (k : Nat) : HostSide := ⟨[(tHz, .file aabc)], none, [], [bad k], false⟩
theorem witness_failed_writes : (failNext 0).mayChange = false ∧ (failNext 0).reply (.create tHz) = .ioFail ∧
    (failNext 1).reply (.mkdirs rootSub) = .ioFail ∧ (failNext 2).reply (.writeFile tBin aabc) = .ioFail ∧
    openArchive.reply .close = .ioFail := by decide
-- the first of two missing directories is created
theorem witness_failed_mkdirs : fsLookup (failNext 1).files root = none ∧
    fsLookup ((failNext 1).after (.mkdirs rootSub)).files root = some .dir ∧
    fsLookup ((failNext 2).after (.mkdirs rootSub)).files rootSub = some .dir ∧
    rootSub = root ++ [Config.sep] ++ sub := by decide
theorem witness_paths : Config.sep ∈ rootSub ∧ Config.sep ∉ root := by decide
theorem witness_sort : [sub, nameA].Perm [nameA, sub] := by decide

/-! ### The hypotheses of the longest statements, all together -/

theorem witness_CdirWritesTree : ∃ (s : State) (out : Bytes) (es : List (Bytes × Option Bytes)) (frame : Bytes → Frame)
    (qs : List HostReq),
    fsLookup s.host.files s.pin = some .dir ∧ validName (lastSeg s.pin) = true ∧
    (lastSeg s.pin).length ≤ Config.maxStr ∧ (headerBytes true (lastSeg s.pin)).length ≤ s.cap ∧
    out = (if s.pout = [] then s.pin ++ s.params.archiveExt else s.pout) ∧ descendant out s.pin = false ∧
    treeEntries s.params.walkDepthMax s.host.files s.pin [] = some es ∧
    (∀ e ∈ es, e.1.length ≤ Config.maxStr ∧ (walkEntryBytes frame e).length ≤ s.cap) ∧
    (∀ e ∈ es, ∀ d, e.2 = some d → FrameOf s.cap frame d) ∧
    treeRequests frame s.params.walkDepthMax s.host.files s.pin [] = some qs ∧ Quiet (3 + qs.length) s.host ∧
    ∃ d, s.host.draws[3 + qs.length]? = some d :=
  ⟨cdirState, rootHz, entries2, frames2, walk2, witness_cdir_state.1, witness_cdir_state.2.1, witness_cdir_state.2.2.1,
    witness_cdir_state.2.2.2.1, witness_cdir_state.2.2.2.2.1, witness_cdir_state.2.2.2.2.2.1, witness_cdir_entries.1,
    witness_cdir_entries.2.1, witness_cdir_frames, witness_cdir_entries.2.2, by decide, good, by decide⟩
-- the same host whose H_CLOSE fails
theorem witness_cdir_close : Quiet (3 + walk2.length) (cdirWith tree2 (List.replicate 11 good ++ [bad 0]) false).host ∧
    (cdirWith tree2 (List.replicate 11 good ++ [bad 0]) false).host.draws[3 + walk2.length]? = some (bad 0) := by decide

theorem witness_DdirRecreatesEntries : ∃ (s : State) (root base : Bytes) (es : List (Bytes × Option Bytes))
    (frame : Bytes → Frame) (qs : List HostReq),
    fsLookup s.host.files s.pin = some (.file (headerBytes true root ++ entriesBytes frame es)) ∧
    (headerBytes true root ++ entriesBytes frame es).length ≤ s.cap ∧
    validName root = true ∧ root.length ≤ Config.maxStr ∧ base = join s.pdst root ∧
    (∀ e ∈ es, validPath e.1 = true ∧ e.1.length ≤ Config.maxStr) ∧
    (∀ e ∈ es, ∀ d, e.2 = some d → Decodes (frame d) d ∧ d.length ≤ s.cap) ∧
    qs = .mkdirs base :: es.flatMap (entryRequests base) ∧ Quiet (1 + qs.length) s.host :=
  ⟨ddirState, root, join outDir root, entries2, frames2, ddirRequests, witness_ddir_state.1, witness_ddir_state.2.1,
    witness_ddir_state.2.2.1, witness_ddir_state.2.2.2.1, witness_ddir_state.2.2.2.2.1, witness_ddir_state.2.2.2.2.2.1,
    witness_ddir_frames, rfl, witness_ddir_state.2.2.2.2.2.2⟩

theorem witness_DdirWritesUnderItsRoot : ∃ (s : State) (root base r : Bytes) (es : List (Bytes × Option Bytes))
    (frame : Bytes → Frame) (qs : List HostReq) (a : Bytes) (e : Err),
    fsLookup s.host.files s.pin = some (.file a) ∧ a = headerBytes true root ++ entriesBytes frame es ++ r ∧
    a.length ≤ s.cap ∧ validName root = true ∧ root.length ≤ Config.maxStr ∧ base = join s.pdst root ∧
    (∀ x ∈ es, validPath x.1 = true ∧ x.1.length ≤ Config.maxStr) ∧
    (∀ x ∈ es, ∀ d, x.2 = some d → Decodes (frame d) d ∧ d.length ≤ s.cap) ∧
    entryError s.cap a (a.length - r.length) = some e ∧
    qs = .mkdirs base :: es.flatMap (entryRequests base) ∧ Quiet (1 + qs.length) s.host :=
  ⟨ddirDot, root, join outDir root, dirBytes [0x2E], entries2, frames2, ddirRequests, archiveDot, .malformed,
    witness_ddir_entry_fails.1, rfl, witness_ddir_entry_fails.2.1, witness_ddir_state.2.2.1, witness_ddir_state.2.2.2.1,
    witness_ddir_entry_fails.2.2.1, witness_ddir_state.2.2.2.2.2.1, witness_ddir_frames,
    witness_ddir_entry_fails.2.2.2.1, rfl, witness_ddir_entry_fails.2.2.2.2⟩

theorem witness_CdirThenDdir : ∃ (s t u : State) (out base : Bytes) (es : List (Bytes × Option Bytes)),
    s.host.mayChange = false ∧ fsLookup s.host.files s.pin = some .dir ∧
    out = (if s.pout = [] then s.pin ++ s.params.archiveExt else s.pout) ∧ descendant out s.pin = false ∧
    treeEntries s.params.walkDepthMax s.host.files s.pin [] = some es ∧
    exec .cdir s = .next t ∧ t.err = 0 ∧
    u.host.files = t.host.files ∧ u.pin = out ∧ (∀ e ∈ es, ∀ d, e.2 = some d → d.length ≤ u.cap) ∧
    (∀ a, fsLookup u.host.files out = some (.file a) → a.length ≤ u.cap) ∧
    base = join u.pdst (lastSeg s.pin) ∧
    Quiet (2 + (es.flatMap (entryRequests base)).length) u.host :=
  ⟨cdirState, cdirDone, ddirNext, rootHz, join outDir root, entries2, witness_cdir_ddir.1, witness_cdir_state.1,
    witness_cdir_state.2.2.2.2.1, witness_cdir_state.2.2.2.2.2.1, witness_cdir_entries.1, witness_cdir_ddir.2.1,
    witness_cdir_ddir.2.2.1, witness_cdir_ddir.2.2.2.1, witness_cdir_ddir.2.2.2.2.1, witness_cdir_ddir_rest.1,
    witness_cdir_ddir_rest.2, witness_cdir_ddir.2.2.2.2.2.1, witness_cdir_ddir.2.2.2.2.2.2⟩

theorem witness_PrevListsEntries : ∃ (s : State) (root : Bytes) (es : List (Bytes × Option RawFrame)),
    Quiet 1 s.host ∧ root.length ≤ Config.maxStr ∧
    fsLookup s.host.files s.pin = some (.file (headerBytes true root ++ es.flatMap rawEntryBytes)) ∧
    (headerBytes true root ++ es.flatMap rawEntryBytes).length ≤ s.cap ∧
    (∀ e ∈ es, e.1.length ≤ Config.maxStr ∧ ∀ f, e.2 = some f → f.Fits) :=
  ⟨prevState, root, rawEntries, witness_prev.1, witness_prev.2.1, witness_prev.2.2.1, witness_prev.2.2.2,
    witness_raw_entries⟩

end Sys2Proof.Tests
end

section
/-! PROOFS. The primitive commands as one family: the registers each computes, and the form its success takes
(10_state.md R23, R37; 30_encoding.md R65). -/

namespace Sys2Proof.Machine

open Sys2Proof.Certificates

/-- The register computation of a primitive command; an operation command computes none and is left as the identity
(`exec_primitive` ties it to `exec`). -/
def regsOf : Instr → State → Except Err State
  | .freq => freqRegs
  | .build => buildRegs
  | .codes => codesRegs
  | .trie => trieRegs
  | .tser => tserRegs
  | .tdes => tdesRegs
  | .pack => packRegs
  | .unpack => unpackRegs
  | .fenc => fencRegs
  | .fdec => fdecRegs
  | .pwr => pwrRegs
  | .prd => prdRegs
  | .pskip => pskipRegs
  | .ewrDir => ewrDirRegs
  | .ewrFile => ewrFileRegs
  | .erd => erdRegs
  | .hwrFile => hwrRegs false
  | .hwrFold => hwrRegs true
  | .hrdFile => hrdRegs false
  | .hrdFold => hrdRegs true
  | .cfile => .ok
  | .dfile => .ok
  | .cdir => .ok
  | .ddir => .ok
  | .prev => .ok

/-- A primitive command ends with the registers it computes, or with their error (R23). -/
theorem exec_primitive {i : Instr} (hi : primitive i = true) (s : State) :
    exec i s = .next (s.finish (opcode i) (regsOf i s)) := by
  cases i with
  | cfile | dfile | cdir | ddir | prev => cases hi
  | _ => rfl

/-- The operation commands (00_scope.md R15). -/
theorem operation_cases {i : Instr} (hi : primitive i = false) :
    i = .cfile ∨ i = .dfile ∨ i = .cdir ∨ i = .ddir ∨ i = .prev := by
  cases i <;> simp_all [primitive]

/-! ### What a register computation that succeeds has done -/

theorem bind_appendDout_ok {r : Except Err Bytes} {s t : State} (h : (do let o ← r; s.appendDout o) = .ok t) :
    ∃ o, r = .ok o ∧ s.dout.length + o.length ≤ s.cap ∧ t = s.setDout (s.dout ++ o) := by
  obtain ⟨o, ho, h⟩ := (Except.bind_ok_iff _ _ _).1 h
  exact ⟨o, ho, State.appendDout_ok h⟩

theorem codesRegs_ok {s t : State} (h : codesRegs s = .ok t) : ∃ c, codesOf s.tree = .ok c ∧ t = s.setCt c := by
  obtain ⟨c, hc, h⟩ := (Except.bind_ok_iff _ _ _).1 h
  cases h
  exact ⟨c, hc, rfl⟩

theorem trieRegs_ok {s t : State} (h : trieRegs s = .ok t) : ∃ r, toTrie s.ct = .ok r ∧ t = s.setTree r := by
  obtain ⟨r, hr, h⟩ := (Except.bind_ok_iff _ _ _).1 h
  cases h
  exact ⟨r, hr, rfl⟩

theorem tdesRegs_ok {s t : State} (h : tdesRegs s = .ok t) :
    ∃ c p, tdes s.din s.pos = .ok (c, p) ∧ t = (s.setCt c).setPos p := by
  obtain ⟨⟨c, p⟩, hc, h⟩ := (Except.bind_ok_iff _ _ _).1 h
  cases h
  exact ⟨c, p, hc, rfl⟩

theorem packRegs_ok {s t : State} (h : packRegs s = .ok t) :
    ∃ o e, pack s.din s.ct = .ok (o, e) ∧ o.length ≤ s.cap ∧ t = (s.setPk o).setEff e := by
  obtain ⟨⟨o, e⟩, ho, h⟩ := (Except.bind_ok_iff _ _ _).1 h
  obtain ⟨_, hc, h⟩ := (Except.bind_ok_iff _ _ _).1 h
  cases h
  exact ⟨o, e, ho, by simpa using hc, rfl⟩

theorem fencRegs_ok {s t : State} (h : fencRegs s = .ok t) :
    ∃ c o e, codesOf (buildTree (freqOf s.din)) = .ok c ∧ pack s.din c = .ok (o, e) ∧ o.length ≤ s.cap ∧
      t = ((((s.setFt (freqOf s.din)).setTree (buildTree (freqOf s.din))).setCt c).setPk o).setEff e := by
  obtain ⟨c, hc, h⟩ := (Except.bind_ok_iff _ _ _).1 h
  obtain ⟨⟨o, e⟩, ho, h⟩ := (Except.bind_ok_iff _ _ _).1 h
  obtain ⟨_, hl, h⟩ := (Except.bind_ok_iff _ _ _).1 h
  cases h
  exact ⟨c, o, e, hc, ho, by simpa using hl, rfl⟩

theorem fdecRegs_ok {s t : State} (h : fdecRegs s = .ok t) :
    ∃ r o, toTrie s.ct = .ok r ∧ unpack s.pk s.eff r = .ok o ∧ s.dout.length + o.length ≤ s.cap ∧
      t = (s.setDout (s.dout ++ o)).setTree r := by
  obtain ⟨r, hr, h⟩ := (Except.bind_ok_iff _ _ _).1 h
  obtain ⟨o, ho, h⟩ := (Except.bind_ok_iff _ _ _).1 h
  obtain ⟨u, hu, h⟩ := (Except.bind_ok_iff _ _ _).1 h
  obtain ⟨hl, rfl⟩ := State.appendDout_ok hu
  cases h
  exact ⟨r, o, hr, ho, hl, rfl⟩

theorem prdRegs_ok {s t : State} (h : prdRegs s = .ok t) :
    ∃ f p, frameRead s.din s.pos = .ok (f, p) ∧
      t = (((s.setCt f.table).setEff f.eff).setPk f.packed).setPos p := by
  obtain ⟨⟨f, p⟩, hf, h⟩ := (Except.bind_ok_iff _ _ _).1 h
  cases h
  exact ⟨f, p, hf, rfl⟩

theorem pskipRegs_ok {s t : State} (h : pskipRegs s = .ok t) :
    ∃ p, frameSkip s.din s.pos = .ok p ∧ t = s.setPos p := by
  obtain ⟨p, hp, h⟩ := (Except.bind_ok_iff _ _ _).1 h
  cases h
  exact ⟨p, hp, rfl⟩

/-- The registers ERD leaves for the entry it read and the cursor after it (44_container.md R129). -/
def State.withEntry (s : State) (p : Nat) : Entry Frame → State
  | .stop => s.setKind 0
  | .dir path => ((s.setKind 1).setName path).setPos p
  | .file path f => (((((s.setKind 2).setName path).setPos p).setCt f.table).setEff f.eff).setPk f.packed

theorem erdRegs_ok {s t : State} (h : erdRegs s = .ok t) :
    ∃ e p, entryRead s.din s.pos = .ok (e, p) ∧ t = s.withEntry p e := by
  obtain ⟨⟨e, p⟩, he, h⟩ := (Except.bind_ok_iff _ _ _).1 h
  refine ⟨e, p, he, ?_⟩
  cases e <;> cases h <;> rfl

theorem hrdRegs_ok {fold : Bool} {s t : State} (h : hrdRegs fold s = .ok t) :
    ∃ n p, headerRead s.din s.pos fold = .ok (n, p) ∧ t = (s.setName n).setPos p := by
  obtain ⟨⟨n, p⟩, hn, h⟩ := (Except.bind_ok_iff _ _ _).1 h
  cases h
  exact ⟨n, p, hn, rfl⟩

/-! ### Frames -/

theorem KeepsInputs.refl (s : State) : KeepsInputs s s :=
  ⟨rfl, rfl, rfl, rfl, rfl, rfl, rfl, rfl, rfl, rfl, List.prefix_rfl⟩

/-- What no primitive command changes (10_state.md R32, R37). -/
theorem regsOf_keeps {i : Instr} {s t : State} (h : regsOf i s = .ok t) : KeepsInputs s t := by
  cases i with
  | freq => cases h; exact ⟨rfl, rfl, rfl, rfl, rfl, rfl, rfl, rfl, rfl, rfl, List.prefix_rfl⟩
  | build => cases h; exact ⟨rfl, rfl, rfl, rfl, rfl, rfl, rfl, rfl, rfl, rfl, List.prefix_rfl⟩
  | codes => exact codesRegs_keeps h
  | trie => exact trieRegs_keeps h
  | tser | unpack | pwr | ewrDir | ewrFile | hwrFile | hwrFold => exact bind_appendDout_keeps h
  | tdes => exact tdesRegs_keeps h
  | pack => exact packRegs_keeps h
  | fenc => exact fencRegs_keeps h
  | fdec => exact fdecRegs_keeps h
  | prd => exact prdRegs_keeps h
  | pskip => exact pskipRegs_keeps h
  | erd => exact erdRegs_keeps h
  | hrdFile | hrdFold => exact hrdRegs_keeps h
  | cfile | dfile | cdir | ddir | prev => cases h; exact .refl _

/-- Every register a command may write is as before unless the command is listed for it (30_encoding.md R65). -/
def KeepsUnlisted (i : Instr) (s t : State) : Prop :=
  (i ∉ [.tser, .unpack, .fdec, .pwr, .ewrDir, .ewrFile, .hwrFile, .hwrFold] → t.dout = s.dout) ∧
  (i ∉ [.tdes, .prd, .pskip, .erd, .hrdFile, .hrdFold] → t.pos = s.pos) ∧
  (i ∉ [.freq, .fenc] → t.ft = s.ft) ∧
  (i ∉ [.build, .trie, .fenc, .fdec] → t.tree = s.tree) ∧
  (i ∉ [.codes, .tdes, .fenc, .prd, .erd] → t.ct = s.ct) ∧
  (i ∉ [.pack, .fenc, .prd, .erd] → t.pk = s.pk ∧ t.eff = s.eff) ∧
  (i ∉ [.erd, .hrdFile, .hrdFold, .prev] → t.name = s.name) ∧
  (i ≠ .erd → t.kind = s.kind)

theorem KeepsUnlisted.refl (i : Instr) (s : State) : KeepsUnlisted i s s := by simp [KeepsUnlisted]

/-- A primitive command writes only the registers of its row (R65). -/
theorem regsOf_keepsUnlisted {i : Instr} {s t : State} (h : regsOf i s = .ok t) : KeepsUnlisted i s t := by
  cases i with
  | freq | build => cases h; simp [KeepsUnlisted]
  | codes => obtain ⟨c, -, rfl⟩ := codesRegs_ok h; simp [KeepsUnlisted]
  | trie => obtain ⟨r, -, rfl⟩ := trieRegs_ok h; simp [KeepsUnlisted]
  | tser | unpack | pwr | ewrDir | ewrFile | hwrFile | hwrFold =>
    obtain ⟨o, -, -, rfl⟩ := bind_appendDout_ok h; simp [KeepsUnlisted]
  | tdes => obtain ⟨c, p, -, rfl⟩ := tdesRegs_ok h; simp [KeepsUnlisted]
  | pack => obtain ⟨o, e, -, -, rfl⟩ := packRegs_ok h; simp [KeepsUnlisted]
  | fenc => obtain ⟨c, o, e, -, -, -, rfl⟩ := fencRegs_ok h; simp [KeepsUnlisted]
  | fdec => obtain ⟨r, o, -, -, -, rfl⟩ := fdecRegs_ok h; simp [KeepsUnlisted]
  | prd => obtain ⟨f, p, -, rfl⟩ := prdRegs_ok h; simp [KeepsUnlisted]
  | pskip => obtain ⟨p, -, rfl⟩ := pskipRegs_ok h; simp [KeepsUnlisted]
  | erd => obtain ⟨e, p, -, rfl⟩ := erdRegs_ok h; cases e <;> simp [KeepsUnlisted, State.withEntry]
  | hrdFile | hrdFold => obtain ⟨n, p, -, rfl⟩ := hrdRegs_ok h; simp [KeepsUnlisted]
  | cfile | dfile | cdir | ddir | prev => cases h; exact .refl _ _

/-! ### How every command ends (10_state.md R24, R37; 60_exceptions.md R169) -/

/-- The code STATUS.ERR gets where a command ends with this error, or with none (R24, R166). -/
def endCode (e : Option Err) : BitVec 4 := (e.map errCode).getD 0

/-- The error a computation ends with, if any. -/
def resultError {α : Type} : Except Err α → Option Err
  | .ok _ => none
  | .error e => some e

/-- A primitive command ends with STATUS written over the registers it computed, or over the registers as they were. -/
theorem exec_primitive_ends {i : Instr} (hi : primitive i = true) (s : State) :
    ∃ t, exec i s = .next (t.setStatus (opcode i) (endCode (resultError (regsOf i s)))) ∧
      (regsOf i s = .ok t ∨ t = s) := by
  rw [exec_primitive hi]
  cases hr : regsOf i s with
  | ok t => exact ⟨t, rfl, .inl rfl⟩
  | error e => exact ⟨s, rfl, .inr rfl⟩

/-- CFILE, DFILE, CDIR and DDIR write the host's side and STATUS, whatever ends them (R37). -/
theorem State.operate_eq (op : Byte) (act : Act Unit) (s : State) :
    s.operate op act = (s.setHost (act s.host).2).setStatus op (endCode (resultError (act s.host).1)) := by
  unfold State.operate
  cases (act s.host).1 <;> rfl

/-- The requests of CFILE, DFILE, CDIR and DDIR on the registers they read (46_operations.md R142, R144, R145, R150); the
other commands have none here (`exec_operation` ties it to `exec`). -/
def actOf : Instr → State → Act Unit
  | .cfile, s => compressFile s.cap s.params.archiveExt s.pin s.pout
  | .dfile, s => decompressFile s.cap s.pin s.pdst
  | .cdir, s => compressDirectory s.cap s.params.walkDepthMax s.params.archiveExt s.pin s.pout
  | .ddir, s => decompressDirectory s.cap s.pin s.pdst
  | _, _ => Act.pure ()

theorem exec_operation {i : Instr} (hi : primitive i = false) (hp : i ≠ .prev) (s : State) :
    exec i s = .next (s.operate (opcode i) (actOf i s)) := by
  rcases operation_cases hi with rfl | rfl | rfl | rfl | rfl
  · rfl
  · rfl
  · rfl
  · rfl
  · exact absurd rfl hp

/-- The state PREV leaves, whatever ends it (46_operations.md R158, R159). -/
def State.afterPrev (s : State) : State :=
  ((s.setHost (preview s.cap s.pin s.host).2).withPreview (preview s.cap s.pin s.host).1).setStatus (opcode .prev)
    (endCode (preview s.cap s.pin s.host).1.error)

theorem exec_prev (s : State) : exec .prev s = .next s.afterPrev := by
  show Host.Outcome.next
    (match (preview s.cap s.pin s.host).1.error with
    | none => State.succeed (opcode .prev) ((s.setHost _).withPreview _)
    | some e => State.abort (opcode .prev) e ((s.setHost _).withPreview _)) = _
  unfold State.afterPrev
  cases (preview s.cap s.pin s.host).1.error <;> rfl

/-- The registers a command leaves, but for STATUS: those a primitive command computed, or those before it with a new host's
side and, for PREV, a new listing. -/
theorem exec_registers {i : Instr} {s t : State} (h : exec i s = .next t) :
    ∃ u c, t = u.setStatus (opcode i) c ∧
      (regsOf i s = .ok u ∨ u = s ∨ (∃ v, u = s.setHost v) ∨ ∃ v p, u = (s.setHost v).withPreview p) := by
  cases hi : primitive i with
  | true =>
    obtain ⟨u, hu, hr⟩ := exec_primitive_ends hi s
    rw [hu] at h
    cases h
    exact ⟨u, _, rfl, hr.imp id .inl⟩
  | false =>
    by_cases hp : i = .prev
    · subst hp
      rw [exec_prev] at h
      cases h
      exact ⟨_, _, rfl, .inr (.inr (.inr ⟨_, _, rfl⟩))⟩
    · rw [exec_operation hi hp, State.operate_eq] at h
      cases h
      exact ⟨_, _, rfl, .inr (.inr (.inl ⟨_, rfl⟩))⟩

end Sys2Proof.Machine
end

section
/-! PROOFS. The errors each computation can raise (60_exceptions.md R172), one lemma per function of the model. -/

namespace Sys2Proof.Machine

/-- Every error of `r` is one of `l`. -/
def Raises {α : Type} (l : List Err) (r : Except Err α) : Prop := ∀ e, r = .error e → e ∈ l

namespace Raises

theorem ok {α : Type} (l : List Err) (a : α) : Raises l (.ok a) := fun _ h => by cases h

theorem error {α : Type} {l : List Err} {e : Err} (h : e ∈ l) : Raises (α := α) l (.error e) :=
  fun _ h' => by cases h'; exact h

theorem mono {α : Type} {l l' : List Err} {r : Except Err α} (h : Raises l r) (hl : l ⊆ l') : Raises l' r :=
  fun e he => hl (h e he)

theorem bind {α β : Type} {l : List Err} {x : Except Err α} {f : α → Except Err β} (hx : Raises l x)
    (hf : ∀ a, Raises l (f a)) : Raises l (x >>= f) := by
  cases x with
  | ok a => exact hf a
  | error e => exact .error (hx e rfl)

theorem check {l : List Err} {c : Bool} {e : Err} (h : e ∈ l) : Raises l (require c e) := by
  cases c
  · exact .error h
  · exact .ok _ _

end Raises

/-! ### Field primitives (20_memory.md R44 to R48) -/

theorem rdBytes_raises (n : Nat) (s : Bytes) (p : Nat) : Raises [.truncatedStream] (rdBytes n s p) := by
  intro e h
  simp [((rdBytes_error_iff n s p e).1 h).2]

theorem rdUInt_raises (n : Nat) (s : Bytes) (p : Nat) : Raises [.truncatedStream] (rdUInt n s p) :=
  (rdBytes_raises n s p).bind fun _ => .ok _ _

theorem rdU8_raises (s : Bytes) (p : Nat) : Raises [.truncatedStream] (rdU8 s p) :=
  (rdUInt_raises 1 s p).bind fun _ => .ok _ _

theorem rdStr_raises (s : Bytes) (p : Nat) : Raises [.truncatedStream] (rdStr s p) :=
  (rdUInt_raises 2 s p).bind fun _ => rdBytes_raises _ _ _

theorem wrU32_raises (v : Nat) : Raises [.capacityExceeded] (wrU32 v) := by
  unfold wrU32
  split
  · exact .error (by simp)
  · exact .ok _ _

theorem wrStr_raises (b : Bytes) : Raises [.capacityExceeded] (wrStr b) := by
  unfold wrStr
  split
  · exact .error (by simp)
  · exact .ok _ _

theorem appendDout_raises (o : Bytes) (s : State) : Raises [.capacityExceeded] (s.appendDout o) := by
  unfold State.appendDout
  split
  · exact .error (by simp)
  · exact .ok _ _

/-! ### Trees and tables (41_tree_codetable.md) -/

theorem codesOf_raises (t : Tree) : Raises [.malformed] (codesOf t) := by
  cases t with
  | absent => exact .ok _ _
  | leaf b => exact .error (by simp)
  | inner l r => exact .ok _ _

theorem place_raises (b : Byte) (t : Tree) (c : Bits) : Raises [.malformed] (place b t c) := by
  induction t, c using place.induct with
  | case1 => exact .ok _ _
  | case2 | case3 | case6 => exact .error (by simp)
  | case4 cs ih | case5 cs ih | case7 l r cs ih | case8 l r cs ih => exact ih.bind fun _ => .ok _ _

theorem placeAll_raises (c : CodeTable) (t : Tree) : Raises [.malformed] (placeAll c t) := by
  induction c generalizing t with
  | nil => exact .ok _ _
  | cons e c ih => exact (place_raises _ _ _).bind fun _ => ih _

theorem toTrie_raises (c : CodeTable) : Raises [.malformed] (toTrie c) := by
  cases c with
  | nil => exact .ok _ _
  | cons e c => exact placeAll_raises _ _

theorem tserEntries_raises (c : CodeTable) : Raises [.capacityExceeded] (tserEntries c) := by
  induction c with
  | nil => exact .ok _ _
  | cons e c ih => exact ((wrU32_raises _).bind fun _ => .ok _ _).bind fun _ => ih.bind fun _ => .ok _ _

theorem tser_raises (c : CodeTable) : Raises [.capacityExceeded] (tser c) :=
  (wrU32_raises _).bind fun _ => (tserEntries_raises c).bind fun _ => .ok _ _

theorem unitBit_raises (u : Nat) : Raises [.malformed] (unitBit u) := by
  unfold unitBit
  split
  · exact .ok _ _
  · split
    · exact .ok _ _
    · exact .error (by simp)

theorem rdBits_raises (n : Nat) (s : Bytes) (p : Nat) : Raises [.truncatedStream, .malformed] (rdBits n s p) := by
  induction n generalizing p with
  | zero => exact .ok _ _
  | succ n ih =>
    exact ((rdUInt_raises 2 s p).mono (by decide)).bind fun _ =>
      ((unitBit_raises _).mono (by decide)).bind fun _ => (ih _).bind fun _ => .ok _ _

theorem tdesEntries_raises (n : Nat) (s : Bytes) (p : Nat) (c : CodeTable) :
    Raises [.truncatedStream, .malformed] (tdesEntries n s p c) := by
  induction n generalizing p c with
  | zero => exact .ok _ _
  | succ n ih =>
    exact ((rdU8_raises s p).mono (by decide)).bind fun _ =>
      ((rdUInt_raises 4 s _).mono (by decide)).bind fun _ => (Raises.check (by decide)).bind fun _ =>
        (Raises.check (by decide)).bind fun _ => (rdBits_raises _ _ _).bind fun _ =>
          (Raises.check (by decide)).bind fun _ => ih _ _

theorem tdes_raises (s : Bytes) (p : Nat) : Raises [.truncatedStream, .malformed] (tdes s p) :=
  ((rdUInt_raises 4 s p).mono (by decide)).bind fun _ => (Raises.check (by decide)).bind fun _ =>
    (Raises.check (by decide)).bind fun _ => tdesEntries_raises _ _ _ _

/-! ### Packing (42_bitpack.md) -/

theorem codeBits_raises (c : CodeTable) (d : Bytes) : Raises [.unknownSymbol] (codeBits c d) := by
  induction d with
  | nil => exact .ok _ _
  | cons b d ih =>
    unfold codeBits
    split
    · exact .error (by simp)
    · exact ih.bind fun _ => .ok _ _

theorem pack_raises (d : Bytes) (c : CodeTable) : Raises [.unknownSymbol, .capacityExceeded] (pack d c) :=
  ((codeBits_raises c d).mono (by decide)).bind fun _ => (Raises.check (by decide)).bind fun _ => .ok _ _

theorem walkBits_raises (t n : Tree) (atRoot : Bool) (bits : Bits) : Raises [.malformed] (walkBits t n atRoot bits) := by
  induction bits generalizing n atRoot with
  | nil =>
    cases atRoot
    · exact .error (by simp)
    · exact .ok _ _
  | cons x bits ih =>
    unfold walkBits
    split
    · exact .error (by simp)
    · exact (ih _ _).bind fun _ => .ok _ _
    · exact ih _ _

theorem unpack_raises (pk : Bytes) (e : Byte) (t : Tree) : Raises [.malformed] (unpack pk e t) :=
  (Raises.check (by decide)).bind fun _ => (Raises.check (by decide)).bind fun _ => walkBits_raises _ _ _ _

/-! ### Frames, entries and headers (43_filecodec.md, 44_container.md, 45_archive_header.md) -/

theorem frameWrite_raises (pk : Bytes) (e : Byte) (c : CodeTable) :
    Raises [.malformed, .capacityExceeded] (frameWrite pk e c) :=
  (Raises.check (by decide)).bind fun _ => ((wrU32_raises _).mono (by decide)).bind fun _ =>
    ((tser_raises c).mono (by decide)).bind fun _ => .ok _ _

theorem frameRead_raises (s : Bytes) (p : Nat) : Raises [.truncatedStream, .malformed] (frameRead s p) :=
  ((rdUInt_raises 4 s p).mono (by decide)).bind fun _ => (Raises.check (by decide)).bind fun _ =>
    ((rdU8_raises s _).mono (by decide)).bind fun _ => (Raises.check (by decide)).bind fun _ =>
      (tdes_raises s _).bind fun _ => ((rdBytes_raises _ s _).mono (by decide)).bind fun _ => .ok _ _

theorem skipEntries_raises (n : Nat) (s : Bytes) (p : Nat) : Raises [.truncatedStream] (skipEntries n s p) := by
  induction n generalizing p with
  | zero => exact .ok _ _
  | succ n ih =>
    exact (rdU8_raises s p).bind fun _ => (rdUInt_raises 4 s _).bind fun _ => (rdBytes_raises _ s _).bind fun _ => ih _

theorem frameSkip_raises (s : Bytes) (p : Nat) : Raises [.truncatedStream] (frameSkip s p) :=
  (rdUInt_raises 4 s p).bind fun _ => (rdU8_raises s _).bind fun _ => (rdUInt_raises 4 s _).bind fun _ =>
    (skipEntries_raises _ s _).bind fun _ => (rdBytes_raises _ s _).bind fun _ => .ok _ _

theorem dirEntry_raises (q : Bytes) : Raises [.capacityExceeded] (dirEntry q) :=
  (wrStr_raises _).bind fun _ => (wrStr_raises _).bind fun _ => .ok _ _

theorem fileEntry_raises (q : Bytes) (f : Frame) : Raises [.malformed, .capacityExceeded] (fileEntry q f) :=
  ((wrStr_raises _).mono (by decide)).bind fun _ => ((wrStr_raises _).mono (by decide)).bind fun _ =>
    (frameWrite_raises _ _ _).bind fun _ => .ok _ _

theorem entryReadWith_raises {φ : Type} {payload : Bytes → Nat → Except Err (φ × Nat)}
    (hp : ∀ s p, Raises [.truncatedStream, .malformed] (payload s p)) (s : Bytes) (p : Nat) :
    Raises [.truncatedStream, .malformed] (entryReadWith payload s p) := by
  have hstr : ∀ p, Raises [.truncatedStream, .malformed] (rdStr s p) := fun p => (rdStr_raises s p).mono (by decide)
  unfold entryReadWith
  split
  · exact .ok _ _
  · refine (hstr p).bind fun ⟨tag, p1⟩ => ?_
    dsimp only
    split
    · exact (hstr _).bind fun _ => .ok _ _
    · split
      · exact (hstr _).bind fun _ => (hp _ _).bind fun _ => .ok _ _
      · exact .error (by simp)

theorem entryRead_raises (s : Bytes) (p : Nat) : Raises [.truncatedStream, .malformed] (entryRead s p) :=
  entryReadWith_raises frameRead_raises s p

theorem entrySkip_raises (s : Bytes) (p : Nat) : Raises [.truncatedStream, .malformed] (entrySkip s p) :=
  entryReadWith_raises (fun s p => ((frameSkip_raises s p).bind fun _ => .ok _ _).mono (by decide)) s p

theorem headerWrite_raises (fold : Bool) (name : Bytes) : Raises [.capacityExceeded] (headerWrite fold name) :=
  (wrStr_raises _).bind fun _ => .ok _ _

theorem headerRead_raises (s : Bytes) (p : Nat) (fold : Bool) :
    Raises [.unrecognizedFormat, .truncatedStream] (headerRead s p fold) :=
  (Raises.check (by decide)).bind fun _ => (rdStr_raises _ _).mono (by decide)

/-! ### The computations inside the operation commands (46_operations.md) -/

theorem encodePasses_raises (cap : Nat) (d1 d2 : Bytes) :
    Raises [.malformed, .unknownSymbol, .capacityExceeded] (encodePasses cap d1 d2) :=
  ((codesOf_raises _).mono (by decide)).bind fun _ => ((pack_raises _ _).mono (by decide)).bind fun _ =>
    (Raises.check (by decide)).bind fun _ => .ok _ _

theorem decodePayload_raises (cap : Nat) (f : Frame) : Raises [.malformed, .capacityExceeded] (decodePayload cap f) :=
  ((toTrie_raises _).mono (by decide)).bind fun _ => ((unpack_raises _ _ _).mono (by decide)).bind fun _ =>
    (Raises.check (by decide)).bind fun _ => .ok _ _

theorem privateStream_raises {l : List Err} {cap : Nat} {r : Except Err Bytes} (hr : Raises l r)
    (hl : .capacityExceeded ∈ l) : Raises l (privateStream cap r) :=
  hr.bind fun _ => (Raises.check hl).bind fun _ => .ok _ _

theorem fileArchive_raises (name : Bytes) (f : Frame) : Raises [.malformed, .capacityExceeded] (fileArchive name f) :=
  ((headerWrite_raises _ _).mono (by decide)).bind fun _ => (frameWrite_raises _ _ _).bind fun _ => .ok _ _

theorem openFileArchive_raises (cap : Nat) (a : Bytes) :
    Raises [.unrecognizedFormat, .truncatedStream, .malformed, .capacityExceeded] (openFileArchive cap a) :=
  ((headerRead_raises _ _ _).mono (by decide)).bind fun _ => (Raises.check (by decide)).bind fun _ =>
    ((frameRead_raises _ _).mono (by decide)).bind fun _ => (Raises.check (by decide)).bind fun _ =>
      ((decodePayload_raises _ _).mono (by decide)).bind fun _ => .ok _ _

theorem openFolder_raises (a : Bytes) : Raises [.unrecognizedFormat, .truncatedStream, .malformed] (openFolder a) :=
  ((headerRead_raises _ _ _).mono (by decide)).bind fun _ => (Raises.check (by decide)).bind fun _ => .ok _ _

theorem previewEntries_raises {a : Bytes} {fuel p : Nat} {st : List Bytes} {e : Err}
    (h : (previewEntries a fuel p st).2 = some e) : e ∈ [Err.truncatedStream, .malformed] := by
  induction fuel generalizing p st with
  | zero => cases h
  | succ fuel ih =>
    unfold previewEntries at h
    split at h
    · next hr => cases h; exact entrySkip_raises _ _ _ hr
    · cases h
    · exact ih h
    · exact ih h

theorem previewArchive_raises {a : Bytes} {e : Err} (h : (previewArchive a).error = some e) :
    e ∈ [Err.unrecognizedFormat, .truncatedStream, .malformed] := by
  unfold previewArchive at h
  split at h
  · next hr =>
    cases h
    exact (headerRead_raises _ _ _).mono (by decide) _ hr
  · exact (by decide : [Err.truncatedStream, .malformed] ⊆ [.unrecognizedFormat, .truncatedStream, .malformed])
      (previewEntries_raises h)

/-! ### Programs of requests -/

/-- Every error the action ends with, on any host, is one of `l`. -/
def Act.Raises {α : Type} (l : List Err) (x : Act α) : Prop := ∀ h, Machine.Raises l (x h).1

namespace Act.Raises

theorem pure {α : Type} (l : List Err) (a : α) : Act.Raises l (Act.pure a) := fun _ => .ok _ _

theorem raise {α : Type} {l : List Err} {e : Err} (h : e ∈ l) : Act.Raises l (Act.raise e : Act α) := fun _ => .error h

theorem lift {α : Type} {l : List Err} {r : Except Err α} (h : Machine.Raises l r) : Act.Raises l (Act.lift r) :=
  fun _ => h

theorem ask (l : List Err) (q : HostReq) : Act.Raises l (Machine.ask q) := fun _ => .ok _ _

theorem bind {α β : Type} {l : List Err} {x : Act α} {f : α → Act β} (hx : Act.Raises l x)
    (hf : ∀ a, Act.Raises l (f a)) : Act.Raises l (x.bind f) := by
  intro h e he
  rcases (Act.bind_error_iff x f h _ e).1 (Prod.ext he rfl) with hx' | ⟨a, h1, -, hf'⟩
  · exact hx h e (congrArg Prod.fst hx')
  · exact hf a h1 e (congrArg Prod.fst hf')

theorem mono {α : Type} {l l' : List Err} {x : Act α} (hx : Act.Raises l x) (hl : l ⊆ l') : Act.Raises l' x :=
  fun h => (hx h).mono hl

theorem demand (q : HostReq) : Act.Raises [.ioFailure] (Machine.demand q) := by
  refine (Act.Raises.ask _ q).bind fun r => ?_
  split
  · exact .raise (by simp)
  · exact .pure _ _

theorem closingOnError {α : Type} {l : List Err} {x : Act α} (hx : Act.Raises l x) :
    Act.Raises l (Machine.closingOnError x) := by
  intro h e he
  rw [closingOnError_apply] at he
  split at he
  · cases he
  · next hr => cases he; exact hx h _ (congrArg Prod.fst hr)

theorem readFile (path : Bytes) : Act.Raises [.notFound, .ioFailure] (Machine.readFile path) := by
  refine (Act.Raises.ask _ _).bind fun r => ?_
  split
  · exact .pure _ _
  · exact .raise (by simp)
  · exact .raise (by simp)

theorem readArchive (cap : Nat) (e : Err) (path : Bytes) :
    Act.Raises [.notFound, .ioFailure, e] (Machine.readArchive cap e path) := by
  refine ((Act.Raises.readFile path).mono (by simp)).bind fun a => ?_
  split
  · exact .pure _ _
  · exact .raise (by simp)

theorem encodeHostFile (cap : Nat) (path : Bytes) :
    Act.Raises [.notFound, .ioFailure, .malformed, .unknownSymbol, .capacityExceeded] (Machine.encodeHostFile cap path) :=
  ((Act.Raises.readFile path).mono (by decide)).bind fun _ =>
    ((Act.Raises.readFile path).mono (by decide)).bind fun _ => .lift ((encodePasses_raises _ _ _).mono (by decide))

theorem emitBuilt {l : List Err} {cap : Nat} {r : Except Err Bytes} (hr : Machine.Raises l r)
    (hc : .capacityExceeded ∈ l) (hi : .ioFailure ∈ l) : Act.Raises l (Machine.emitBuilt cap r) :=
  (Act.Raises.lift (privateStream_raises hr hc)).bind fun _ => (Act.Raises.demand _).mono (by simpa using hi)

theorem forNames {l : List Err} {step : Bytes → Act Unit} (hs : ∀ nm, Act.Raises l (step nm)) (ns : List Bytes) :
    Act.Raises l (Machine.forNames step ns) := by
  induction ns with
  | nil => exact .pure _ _
  | cons nm ns ih => exact (hs nm).bind fun _ => ih

theorem compressFile (cap : Nat) (ext pin pout : Bytes) :
    Act.Raises [.notFound, .ioFailure, .malformed, .unknownSymbol, .capacityExceeded]
      (Machine.compressFile cap ext pin pout) := by
  refine (Act.Raises.ask _ _).bind fun r => ?_
  split
  · exact .raise (by simp)
  · split
    · refine (Act.Raises.encodeHostFile _ _).bind fun f =>
        (Act.Raises.lift (privateStream_raises ((fileArchive_raises _ _).mono (by decide)) (by decide))).bind fun o => ?_
      exact ((Act.Raises.demand _).mono (by decide)).bind fun _ =>
        (((Act.Raises.demand _).mono (by decide)).closingOnError).bind fun _ => (Act.Raises.demand _).mono (by decide)
    · exact .raise (by simp)
  · exact .raise (by simp)

theorem decompressFile (cap : Nat) (pin pdst : Bytes) :
    Act.Raises [.notFound, .ioFailure, .unrecognizedFormat, .truncatedStream, .malformed, .capacityExceeded]
      (Machine.decompressFile cap pin pdst) :=
  ((Act.Raises.readArchive _ _ _).mono (by decide)).bind fun _ =>
    (Act.Raises.lift ((openFileArchive_raises _ _).mono (by decide))).bind fun _ =>
      (Act.Raises.demand _).mono (by decide)

theorem walk (cap levels : Nat) (dir rel : Bytes) :
    Act.Raises [.notFound, .ioFailure, .malformed, .unknownSymbol, .capacityExceeded] (Machine.walk cap levels dir rel) := by
  induction levels generalizing dir rel with
  | zero => exact .raise (by simp)
  | succ levels ih =>
    unfold Machine.walk
    refine Act.Raises.bind ?_ fun ns => .forNames (fun nm => (Act.Raises.ask _ _).bind fun k => ?_) ns
    · refine (Act.Raises.ask _ _).bind fun r => ?_
      split
      · exact .pure _ _
      · exact .raise (by simp)
    · split
      · exact .raise (by simp)
      · exact (Act.Raises.emitBuilt ((dirEntry_raises _).mono (by decide)) (by decide) (by decide)).bind fun _ => ih _ _
      · exact (Act.Raises.encodeHostFile _ _).bind fun f =>
          .emitBuilt ((fileEntry_raises _ _).mono (by decide)) (by decide) (by decide)
      · exact .raise (by simp)

theorem compressDirectory (cap depth : Nat) (ext pin pout : Bytes) :
    Act.Raises [.notFound, .ioFailure, .malformed, .unknownSymbol, .capacityExceeded]
      (Machine.compressDirectory cap depth ext pin pout) := by
  refine (Act.Raises.ask _ _).bind fun r => ?_
  split
  · exact .raise (by simp)
  · split
    · exact ((Act.Raises.demand _).mono (by decide)).bind fun _ =>
        (Act.Raises.closingOnError
          ((Act.Raises.emitBuilt ((headerWrite_raises _ _).mono (by decide)) (by decide) (by decide)).bind fun _ =>
            .walk _ _ _ _)).bind fun _ => (Act.Raises.demand _).mono (by decide)
    · exact .raise (by simp)
  · exact .raise (by simp)

theorem applyFile (cap : Nat) (base q : Bytes) (f : Frame) :
    Act.Raises [.ioFailure, .malformed, .capacityExceeded] (Machine.applyFile cap base q f) := by
  refine (Act.Raises.lift ((decodePayload_raises _ _).mono (by decide))).bind fun d =>
    Act.Raises.bind ?_ fun _ => (Act.Raises.demand _).mono (by decide)
  split
  · exact .pure _ _
  · exact (Act.Raises.demand _).mono (by decide)

theorem applyEntries (cap : Nat) (base a : Bytes) (fuel p : Nat) :
    Act.Raises [.ioFailure, .truncatedStream, .malformed, .capacityExceeded] (Machine.applyEntries cap base a fuel p) := by
  induction fuel generalizing p with
  | zero => exact .pure _ _
  | succ fuel ih =>
    refine (Act.Raises.lift ((entryRead_raises _ _).mono (by decide))).bind fun ep => ?_
    split
    · exact .pure _ _
    · split
      · exact ((Act.Raises.demand _).mono (by decide)).bind fun _ => ih _
      · exact .raise (by simp)
    · split
      · exact ((Act.Raises.applyFile _ _ _ _).mono (by decide)).bind fun _ => ih _
      · exact .raise (by simp)

theorem decompressDirectory (cap : Nat) (pin pdst : Bytes) :
    Act.Raises [.notFound, .ioFailure, .unrecognizedFormat, .truncatedStream, .malformed, .capacityExceeded]
      (Machine.decompressDirectory cap pin pdst) :=
  ((Act.Raises.readArchive _ _ _).mono (by decide)).bind fun _ =>
    (Act.Raises.lift ((openFolder_raises _).mono (by decide))).bind fun _ =>
      ((Act.Raises.demand _).mono (by decide)).bind fun _ => (Act.Raises.applyEntries _ _ _ _ _).mono (by decide)

end Act.Raises

/-! ### The commands -/

/-- The errors of a legal word: codes 1 to 7 (R166). -/
def commandErrs : List Err :=
  [.notFound, .unrecognizedFormat, .truncatedStream, .unknownSymbol, .ioFailure, .malformed, .capacityExceeded]

theorem errCode_commandErrs {e : Err} (h : e ∈ commandErrs) : (errCode e).toNat ≤ 7 := by
  revert h
  cases e <;> decide

theorem bind_appendDout_raises {l : List Err} {r : Except Err Bytes} (hr : Raises l r) (hl : .capacityExceeded ∈ l)
    (s : State) : Raises l (do let o ← r; s.appendDout o) :=
  hr.bind fun _ => (appendDout_raises _ _).mono (by simpa using hl)

theorem regsOf_raises (i : Instr) (s : State) : Raises commandErrs (regsOf i s) := by
  cases i with
  | freq | build | cfile | dfile | cdir | ddir | prev => exact .ok _ _
  | codes => exact ((codesOf_raises _).mono (by decide)).bind fun _ => .ok _ _
  | trie => exact ((toTrie_raises _).mono (by decide)).bind fun _ => .ok _ _
  | tser => exact bind_appendDout_raises ((tser_raises _).mono (by decide)) (by decide) s
  | tdes => exact ((tdes_raises _ _).mono (by decide)).bind fun _ => .ok _ _
  | pack =>
    exact ((pack_raises _ _).mono (by decide)).bind fun _ => (Raises.check (by decide)).bind fun _ => .ok _ _
  | unpack => exact bind_appendDout_raises ((unpack_raises _ _ _).mono (by decide)) (by decide) s
  | fenc =>
    exact ((codesOf_raises _).mono (by decide)).bind fun _ => ((pack_raises _ _).mono (by decide)).bind fun _ =>
      (Raises.check (by decide)).bind fun _ => .ok _ _
  | fdec =>
    exact ((toTrie_raises _).mono (by decide)).bind fun _ => ((unpack_raises _ _ _).mono (by decide)).bind fun _ =>
      ((appendDout_raises _ _).mono (by decide)).bind fun _ => .ok _ _
  | pwr => exact bind_appendDout_raises ((frameWrite_raises _ _ _).mono (by decide)) (by decide) s
  | prd => exact ((frameRead_raises _ _).mono (by decide)).bind fun _ => .ok _ _
  | pskip => exact ((frameSkip_raises _ _).mono (by decide)).bind fun _ => .ok _ _
  | ewrDir => exact bind_appendDout_raises ((dirEntry_raises _).mono (by decide)) (by decide) s
  | ewrFile => exact bind_appendDout_raises ((fileEntry_raises _ _).mono (by decide)) (by decide) s
  | erd =>
    refine ((entryRead_raises _ _).mono (by decide)).bind fun ⟨e, p⟩ => ?_
    cases e <;> exact .ok _ _
  | hwrFile | hwrFold => exact bind_appendDout_raises ((headerWrite_raises _ _).mono (by decide)) (by decide) s
  | hrdFile | hrdFold => exact ((headerRead_raises _ _ _).mono (by decide)).bind fun _ => .ok _ _

theorem preview_raises {cap : Nat} {pin : Bytes} {h : HostSide} {e : Err} (he : (preview cap pin h).1.error = some e) :
    e ∈ [Err.notFound, .unrecognizedFormat, .truncatedStream, .ioFailure, .malformed] := by
  unfold preview at he
  split at he
  · exact (by decide : [Err.unrecognizedFormat, .truncatedStream, .malformed] ⊆
      [.notFound, .unrecognizedFormat, .truncatedStream, .ioFailure, .malformed]) (previewArchive_raises he)
  · next hr =>
    cases he
    exact ((Act.Raises.readArchive _ _ _).mono (by decide)) h _ (congrArg Prod.fst hr)

end Sys2Proof.Machine
end

section
/-! PROOFS. The shapes of FT, TREE and CT are kept by the builders (10_state.md R29 to R31): counts of a buffer, the Huffman
tree of counts, the codes of a tree, the trie of a table, and a table read from a stream. -/

namespace Sys2Proof.Machine

/-! ### Counts (41_tree_codetable.md R86) -/

theorem mem_of_mapGet {α : Type} {m : List (Byte × α)} {b : Byte} {v : α} (h : mapGet m b = some v) : (b, v) ∈ m := by
  induction m with
  | nil => cases h
  | cons e m ih =>
    obtain ⟨k, w⟩ := e
    unfold mapGet at h
    split at h
    · next hk => cases h; subst hk; exact List.mem_cons_self
    · exact List.mem_cons_of_mem _ (ih h)

/-- A key that ascending maps hold has 256 values at most. -/
theorem Ascending.length_le {α : Type} {m : List (Byte × α)} (h : Ascending m) : m.length ≤ 256 := by
  have hnd : (m.map (fun e => e.1.toNat)).Nodup :=
    (List.pairwise_map.2 h).imp fun hab => Nat.ne_of_lt hab
  have hsub : m.map (fun e => e.1.toNat) ⊆ List.range 256 := by
    intro n hn
    obtain ⟨e, -, rfl⟩ := List.mem_map.1 hn
    exact List.mem_range.2 e.1.isLt
  simpa using (hnd.subperm hsub).length_le

/-- The counts of a table lie between 1 and `n`. -/
def CountsWithin (n : Nat) (f : FreqTable) : Prop := ∀ e ∈ f, 0 < e.2 ∧ e.2 ≤ n

theorem countOf_le {n : Nat} {f : FreqTable} (h : CountsWithin n f) (b : Byte) : countOf f b ≤ n := by
  unfold countOf
  cases hb : mapGet f b with
  | none => exact Nat.zero_le n
  | some v => exact (h _ (mem_of_mapGet hb)).2

theorem bump_within {n : Nat} {f : FreqTable} (h : CountsWithin n f) (b : Byte) : CountsWithin (n + 1) (bump f b) := by
  intro e he
  rcases mem_mapSet he with rfl | he
  · exact ⟨Nat.succ_pos _, Nat.succ_le_succ (countOf_le h b)⟩
  · exact ⟨(h e he).1, (h e he).2.trans (Nat.le_succ n)⟩

theorem foldl_bump_within {n : Nat} {f : FreqTable} (d : Bytes) (ha : Ascending f) (h : CountsWithin n f) :
    Ascending (d.foldl bump f) ∧ CountsWithin (n + d.length) (d.foldl bump f) := by
  induction d generalizing n f with
  | nil => exact ⟨ha, h⟩
  | cons b d ih =>
    have := ih (mapSet_ascending ha) (bump_within h b)
    rwa [List.length_cons, Nat.add_comm d.length, ← Nat.add_assoc]

/-- FREQ's table meets FT's invariant whenever the buffer is shorter than 2^64 bytes (R29, R86). -/
theorem freqOf_wf {d : Bytes} (hd : d.length < 2 ^ 64) : FtWf (freqOf d) := by
  obtain ⟨ha, hw⟩ := foldl_bump_within (n := 0) (f := []) d List.Pairwise.nil (fun _ he => by cases he)
  exact ⟨ha, fun e he => ⟨(hw e he).1, by have := (hw e he).2; omega⟩⟩

/-- The counted bytes are bytes of the buffer (R86). -/
theorem mem_of_mem_freqOf {d : Bytes} {e : Byte × Nat} (he : e ∈ freqOf d) : e.1 ∈ d := by
  have h : ∀ (d : Bytes) (f : FreqTable), e ∈ d.foldl bump f → e.1 ∈ d ∨ e ∈ f := by
    intro d
    induction d with
    | nil => exact fun f h => .inr h
    | cons b d ih =>
      intro f h
      rcases ih _ h with h | h
      · exact .inl (List.mem_cons_of_mem _ h)
      · rcases mem_mapSet h with rfl | h
        · exact .inl List.mem_cons_self
        · exact .inr h
  simpa using h d [] he

/-! ### The Huffman tree (R87, R89) -/

/-- The byte values at a tree's leaves, left to right. -/
def Tree.symbols : Tree → List Byte
  | .absent => []
  | .leaf b => [b]
  | .inner l r => l.symbols ++ r.symbols

/-- A tree that is there, has no `Inner` without a child, and holds only symbols of `syms`. -/
structure Tree.Grown (syms : List Byte) (t : Tree) : Prop where
  present : t ≠ .absent
  noHollow : t.noHollow = true
  symbols : t.symbols ⊆ syms

theorem Tree.noHollow_inner {l r : Tree} (hl : l.noHollow = true) (hr : r.noHollow = true)
    (hne : l ≠ .absent ∨ r ≠ .absent) : (Tree.inner l r).noHollow = true := by
  simp only [Tree.noHollow, Bool.and_eq_true, Bool.not_eq_true', Bool.and_eq_false_iff, beq_eq_false_iff_ne]
  exact ⟨⟨hne, hl⟩, hr⟩

theorem Tree.Grown.leaf {syms : List Byte} {b : Byte} (hb : b ∈ syms) : (Tree.leaf b).Grown syms :=
  ⟨by simp, rfl, by simpa [Tree.symbols] using hb⟩

theorem Tree.Grown.inner {syms : List Byte} {l r : Tree} (hl : l.Grown syms) (hr : r.Grown syms) :
    (Tree.inner l r).Grown syms :=
  ⟨by simp, Tree.noHollow_inner hl.noHollow hr.noHollow (.inl hl.present),
    List.append_subset.2 ⟨hl.symbols, hr.symbols⟩⟩

/-- The levels of a queue's nodes, each node's own level counted: merging never adds to it. -/
def queueLevels (q : List Ranked) : Nat := (q.map (fun x => x.node.height + 1)).sum

theorem enqueue_perm (x : Ranked) (q : List Ranked) : (enqueue x q).Perm (x :: q) := by
  induction q with
  | nil => exact .refl _
  | cons y q ih =>
    unfold enqueue
    split
    · exact .refl _
    · exact (ih.cons y).trans (.swap x y q)

theorem queueLevels_enqueue (x : Ranked) (q : List Ranked) :
    queueLevels (enqueue x q) = x.node.height + 1 + queueLevels q :=
  ((enqueue_perm x q).map _).sum_eq

/-- Every node of the queue is grown from `syms`. -/
def QueueGrown (syms : List Byte) (q : List Ranked) : Prop := ∀ x ∈ q, x.node.Grown syms

theorem QueueGrown.enqueue {syms : List Byte} {x : Ranked} {q : List Ranked} (hx : x.node.Grown syms)
    (hq : QueueGrown syms q) : QueueGrown syms (enqueue x q) := fun y hy => by
  rcases List.mem_cons.1 ((enqueue_perm x q).mem_iff.1 hy) with rfl | hy
  · exact hx
  · exact hq y hy

theorem enqueueLeaves_grown {syms : List Byte} {f : FreqTable} (hf : ∀ e ∈ f, e.1 ∈ syms) (seq : Nat) {q : List Ranked}
    (hq : QueueGrown syms q) : QueueGrown syms (enqueueLeaves seq f q) := by
  induction f generalizing seq q with
  | nil => exact hq
  | cons e f ih =>
    exact ih (fun x hx => hf x (List.mem_cons_of_mem _ hx)) _ (hq.enqueue (.leaf (hf e List.mem_cons_self)))

@[simp] theorem enqueueLeaves_length (seq : Nat) (f : FreqTable) (q : List Ranked) :
    (enqueueLeaves seq f q).length = f.length + q.length := by
  induction f generalizing seq q with
  | nil => simp [enqueueLeaves]
  | cons e f ih =>
    simp only [enqueueLeaves, ih, enqueue_length, List.length_cons]
    omega

theorem queueLevels_enqueueLeaves (seq : Nat) (f : FreqTable) (q : List Ranked) :
    queueLevels (enqueueLeaves seq f q) = f.length + queueLevels q := by
  induction f generalizing seq q with
  | nil => simp [enqueueLeaves]
  | cons e f ih =>
    simp only [enqueueLeaves, ih, queueLevels_enqueue, Tree.height, List.length_cons]
    omega

/-- What the merging loop makes of a queue: a grown tree no higher than the queue's levels allow, and no leaf where two
nodes were merged (R87). -/
theorem mergeAll_grown {syms : List Byte} (fuel seq : Nat) (q : List Ranked) (hq : QueueGrown syms q) (hne : q ≠ [])
    (hf : q.length ≤ fuel) :
    (mergeAll fuel seq q).Grown syms ∧ (mergeAll fuel seq q).height + 1 ≤ queueLevels q ∧
      (2 ≤ q.length → (mergeAll fuel seq q).isLeaf = false) := by
  induction fuel generalizing seq q with
  | zero => exact absurd (List.length_eq_zero_iff.1 (Nat.le_zero.1 hf)) hne
  | succ fuel ih =>
    match q with
    | [] => exact absurd rfl hne
    | [x] => exact ⟨hq x List.mem_cons_self, by simp [mergeAll, queueLevels], by simp⟩
    | x :: y :: q =>
      let z : Ranked := ⟨x.freq + y.freq, seq, .inner x.node y.node⟩
      have hz : z.node.Grown syms := (hq x (by simp)).inner (hq y (by simp))
      have hq' : QueueGrown syms (enqueue z q) := QueueGrown.enqueue hz fun w hw => hq w (by simp [hw])
      have hlen : (enqueue z q).length = q.length + 1 := enqueue_length z q
      have hlev : queueLevels (enqueue z q) ≤ queueLevels (x :: y :: q) := by
        rw [queueLevels_enqueue]
        simp only [queueLevels, z, Tree.height, List.map_cons, List.sum_cons]
        omega
      obtain ⟨hg, hh, hl⟩ := ih (seq + 1) (enqueue z q) hq' (List.ne_nil_of_length_eq_add_one hlen)
        (by simp only [List.length_cons] at hf; omega)
      refine ⟨hg, hh.trans hlev, fun _ => ?_⟩
      cases q with
      | cons w q => exact hl (by simp [hlen])
      | nil => cases fuel <;> rfl

/-- The tree BUILD makes: TREE's shape, with the present bytes at its leaves (R30, R87, R89). -/
theorem buildTree_grown {f : FreqTable} (hf : Ascending f) :
    TreeWf (buildTree f) ∧ (buildTree f).symbols ⊆ f.map Prod.fst := by
  have hmem : ∀ e ∈ present f, e.1 ∈ f.map Prod.fst := fun e he =>
    List.mem_map.2 ⟨e, List.mem_of_mem_filter he, rfl⟩
  have hlen : (present f).length ≤ 256 := (List.length_filter_le _ f).trans hf.length_le
  unfold buildTree
  match hp : present f with
  | [] => exact ⟨⟨rfl, rfl, Nat.zero_le _⟩, List.nil_subset _⟩
  | [(b, n)] =>
    refine ⟨⟨rfl, rfl, by simp [Tree.height, Config.maxCodeBits]⟩, ?_⟩
    simpa [Tree.symbols] using hmem (b, n) (by simp [hp])
  | e1 :: e2 :: ps =>
    rw [hp] at hmem hlen
    have hq := enqueueLeaves_grown hmem 0 (q := []) (fun _ hx => by cases hx)
    have hl : (enqueueLeaves 0 (e1 :: e2 :: ps) []).length = ps.length + 2 := by simp
    obtain ⟨hg, hh, hleaf⟩ := mergeAll_grown (e1 :: e2 :: ps).length (e1 :: e2 :: ps).length _ hq
      (List.ne_nil_of_length_eq_add_one hl) (by simp)
    rw [queueLevels_enqueueLeaves] at hh
    exact ⟨⟨hleaf (by omega), hg.noHollow, Nat.le_of_succ_le_succ (hh.trans hlen)⟩, hg.symbols⟩

theorem buildTree_wf {f : FreqTable} (hf : FtWf f) : TreeWf (buildTree f) := (buildTree_grown hf.1).1

/-! ### The codes of a tree (R91) -/

theorem visit_ascending (t : Tree) (path : Bits) {c : CodeTable} (hc : Ascending c) : Ascending (visit t path c) := by
  induction t generalizing path c with
  | absent => exact hc
  | leaf b => exact mapSet_ascending hc
  | inner l r ihl ihr => exact ihr _ (ihl _ hc)

/-- A code that the visit of a tree adds extends the path by at most the tree's height. -/
theorem mem_visit {t : Tree} {path : Bits} {c : CodeTable} {e : Byte × Bits} (he : e ∈ visit t path c) :
    e ∈ c ∨ (e.1 ∈ t.symbols ∧ path.length ≤ e.2.length ∧ e.2.length ≤ path.length + t.height) := by
  induction t generalizing path c with
  | absent => exact .inl he
  | leaf b =>
    rcases mem_mapSet he with rfl | he
    · exact .inr ⟨by simp [Tree.symbols], le_refl _, Nat.le_add_right _ _⟩
    · exact .inl he
  | inner l r ihl ihr =>
    simp only [Tree.symbols, Tree.height, List.mem_append]
    rcases ihr he with he | ⟨hs, h1, h2⟩
    · rcases ihl he with he | ⟨hs, h1, h2⟩
      · exact .inl he
      · simp only [List.length_append, List.length_singleton] at h1 h2
        exact .inr ⟨.inl hs, by omega, by omega⟩
    · simp only [List.length_append, List.length_singleton] at h1 h2
      exact .inr ⟨.inr hs, by omega, by omega⟩

/-- CODES makes a table that meets CT's invariant, over the tree's symbols, of any tree of TREE's shape (R31, R91). -/
theorem codesOf_wf {t : Tree} {c : CodeTable} (ht : TreeWf t) (h : codesOf t = .ok c) :
    CtWf c ∧ ∀ e ∈ c, e.1 ∈ t.symbols := by
  obtain ⟨-, -, hh⟩ := ht
  cases t with
  | absent => cases h; exact ⟨⟨.nil, fun _ he => by cases he⟩, fun _ he => by cases he⟩
  | leaf b => cases h
  | inner l r =>
    cases h
    have hh : 1 + max l.height r.height ≤ 255 := hh
    have hmem : ∀ e ∈ visit (.inner l r) [] [],
        e.1 ∈ (Tree.inner l r).symbols ∧ 1 ≤ e.2.length ∧ e.2.length ≤ 255 := by
      intro e he
      simp only [Tree.symbols, List.mem_append]
      rcases mem_visit (t := r) he with he | ⟨hs, h1, h2⟩
      · rcases mem_visit (t := l) he with he | ⟨hs, h1, h2⟩
        · cases he
        · have h2 : e.2.length ≤ 1 + l.height := h2
          exact ⟨.inl hs, h1, by omega⟩
      · have h2 : e.2.length ≤ 1 + r.height := h2
        exact ⟨.inr hs, h1, by omega⟩
    exact ⟨⟨visit_ascending _ _ .nil, fun e he => (hmem e he).2⟩, fun e he => (hmem e he).1⟩

/-! ### The trie of a table (R93) -/

/-- A tree that is there, has no `Inner` without a child, and has at most `n` levels. -/
structure Tree.GrownTo (n : Nat) (t : Tree) : Prop where
  present : t ≠ .absent
  noHollow : t.noHollow = true
  height : t.height ≤ n

theorem Tree.GrownTo.left {n : Nat} {l r : Tree} (hl : l.GrownTo n) (hr : r.noHollow = true) (hh : r.height ≤ n) :
    (Tree.inner l r).GrownTo (n + 1) :=
  ⟨by simp, Tree.noHollow_inner hl.noHollow hr (.inl hl.present), by
    have := hl.height
    simp only [Tree.height]
    omega⟩

theorem Tree.GrownTo.right {n : Nat} {l r : Tree} (hr : r.GrownTo n) (hl : l.noHollow = true) (hh : l.height ≤ n) :
    (Tree.inner l r).GrownTo (n + 1) :=
  ⟨by simp, Tree.noHollow_inner hl hr.noHollow (.inr hr.present), by
    have := hr.height
    simp only [Tree.height]
    omega⟩

theorem Tree.noHollow_below {l r : Tree} (h : (Tree.inner l r).noHollow = true ∨ Tree.inner l r = .inner .absent .absent) :
    l.noHollow = true ∧ r.noHollow = true := by
  rcases h with h | h
  · simp only [Tree.noHollow, Bool.and_eq_true] at h
    exact ⟨h.1.2, h.2⟩
  · cases h
    exact ⟨rfl, rfl⟩

theorem Tree.height_below {l r : Tree} {n : Nat} (h : (Tree.inner l r).height ≤ n + 1) :
    l.height ≤ n ∧ r.height ≤ n := by
  simp only [Tree.height] at h
  omega

/-- A symbol placed into a child slot fills the slot and keeps its shape, no deeper than the slot and the code are. -/
theorem place_grows {b : Byte} {t t' : Tree} {c : Bits} {n : Nat} (h : place b t c = .ok t')
    (ht : t.noHollow = true ∨ t = .inner .absent .absent) (hn : t.height ≤ n) (hc : c.length ≤ n) : t'.GrownTo n := by
  induction t, c using place.induct generalizing t' n with
  | case1 => cases h; exact ⟨by simp, rfl, Nat.zero_le _⟩
  | case2 | case3 | case6 => cases h
  | case4 cs ih =>
    obtain ⟨m, rfl⟩ := Nat.exists_eq_add_of_le' (Nat.one_le_of_lt hc)
    obtain ⟨l, hl, h⟩ := (Except.bind_ok_iff _ _ _).1 h
    cases h
    exact (ih hl (.inl rfl) (Nat.zero_le m) (Nat.le_of_succ_le_succ hc)).left rfl (Nat.zero_le m)
  | case5 cs ih =>
    obtain ⟨m, rfl⟩ := Nat.exists_eq_add_of_le' (Nat.one_le_of_lt hc)
    obtain ⟨r, hr, h⟩ := (Except.bind_ok_iff _ _ _).1 h
    cases h
    exact (ih hr (.inl rfl) (Nat.zero_le m) (Nat.le_of_succ_le_succ hc)).right rfl (Nat.zero_le m)
  | case7 l r cs ih =>
    obtain ⟨m, rfl⟩ := Nat.exists_eq_add_of_le' (Nat.one_le_of_lt hc)
    obtain ⟨u, hu, h⟩ := (Except.bind_ok_iff _ _ _).1 h
    cases h
    obtain ⟨hnl, hnr⟩ := Tree.noHollow_below ht
    obtain ⟨hhl, hhr⟩ := Tree.height_below hn
    exact (ih hu (.inl hnl) hhl (Nat.le_of_succ_le_succ hc)).left hnr hhr
  | case8 l r cs ih =>
    obtain ⟨m, rfl⟩ := Nat.exists_eq_add_of_le' (Nat.one_le_of_lt hc)
    obtain ⟨u, hu, h⟩ := (Except.bind_ok_iff _ _ _).1 h
    cases h
    obtain ⟨hnl, hnr⟩ := Tree.noHollow_below ht
    obtain ⟨hhl, hhr⟩ := Tree.height_below hn
    exact (ih hu (.inl hnr) hhr (Nat.le_of_succ_le_succ hc)).right hnl hhl

/-- A code that is not empty is never placed at the root itself. -/
theorem place_isLeaf {b : Byte} {t t' : Tree} {c : Bits} (h : place b t c = .ok t') (hc : 1 ≤ c.length) :
    t'.isLeaf = false := by
  induction t, c using place.induct with
  | case1 | case2 | case3 => simp at hc
  | case6 => cases h
  | case4 cs | case5 cs | case7 l r cs | case8 l r cs =>
    obtain ⟨u, -, h⟩ := (Except.bind_ok_iff _ _ _).1 h
    cases h
    rfl

/-- Placing codes of 1 to 255 bits keeps TREE's shape. -/
theorem placeAll_wf {c : CodeTable} {t t' : Tree} (h : placeAll c t = .ok t')
    (hc : ∀ e ∈ c, 1 ≤ e.2.length ∧ e.2.length ≤ Config.maxCodeBits) (ht : TreeWf t) : TreeWf t' := by
  induction c generalizing t with
  | nil => cases h; exact ht
  | cons e c ih =>
    obtain ⟨u, hu, h⟩ := (Except.bind_ok_iff _ _ _).1 h
    obtain ⟨h1, h2⟩ := hc e List.mem_cons_self
    obtain ⟨-, hn, hh⟩ := ht
    have hu' := place_grows hu (.inl hn) hh h2
    exact ih h (fun x hx => hc x (List.mem_cons_of_mem _ hx)) ⟨place_isLeaf hu h1, hu'.noHollow, hu'.height⟩

/-- TRIE makes a tree of TREE's shape of any table that meets CT's invariant (R30, R93). -/
theorem toTrie_wf {c : CodeTable} {t : Tree} (hc : CtWf c) (h : toTrie c = .ok t) : TreeWf t := by
  cases c with
  | nil => cases h; exact ⟨rfl, rfl, Nat.zero_le _⟩
  | cons e c =>
    obtain ⟨u, hu, h⟩ := (Except.bind_ok_iff _ _ _).1 h
    obtain ⟨h1, h2⟩ := hc.2 e List.mem_cons_self
    have hu' := place_grows (n := Config.maxCodeBits) hu (.inr rfl) (by decide) h2
    exact placeAll_wf h (fun x hx => hc.2 x (List.mem_cons_of_mem _ hx)) ⟨place_isLeaf hu h1, hu'.noHollow, hu'.height⟩

/-! ### Readers: what they take lies inside the stream, and what they answer meets the registers' bounds -/

theorem rdUInt_le {n v p p' : Nat} {s : Bytes} (h : rdUInt n s p = .ok (v, p')) : p' ≤ s.length := by
  obtain ⟨h1, -, h2⟩ := (rdUInt_ok_iff ..).1 h
  omega

/-- A string read is within MAX_STR (20_memory.md R45). -/
theorem rdStr_le {s v : Bytes} {p p' : Nat} (h : rdStr s p = .ok (v, p')) :
    v.length ≤ Config.maxStr ∧ p' ≤ s.length := by
  obtain ⟨-, h2, h3, -⟩ := rdStr_ok h
  refine ⟨?_, h2⟩
  have hlt := beNat_lt ((s.drop p).take 2)
  have hle : 256 ^ ((s.drop p).take 2).length ≤ 256 ^ 2 := Nat.pow_le_pow_right (by omega) (List.length_take_le _ _)
  show v.length ≤ 65535
  omega

theorem tdesEntries_wf {n : Nat} {s : Bytes} {p p' : Nat} {c c' : CodeTable} (h : tdesEntries n s p c = .ok (c', p'))
    (hc : CtWf c) (hp : p ≤ s.length) : CtWf c' ∧ p' ≤ s.length := by
  induction n generalizing p c with
  | zero => cases h; exact ⟨hc, hp⟩
  | succ n ih =>
    unfold tdesEntries at h
    obtain ⟨⟨b, p1⟩, -, h⟩ := (Except.bind_ok_iff _ _ _).1 h
    obtain ⟨⟨len, p2⟩, h2, h⟩ := (Except.bind_ok_iff _ _ _).1 h
    obtain ⟨_, hlen, h⟩ := (Except.bind_ok_iff _ _ _).1 h
    obtain ⟨_, hroom, h⟩ := (Except.bind_ok_iff _ _ _).1 h
    obtain ⟨⟨bits, p3⟩, h3, h⟩ := (Except.bind_ok_iff _ _ _).1 h
    obtain ⟨_, -, h⟩ := (Except.bind_ok_iff _ _ _).1 h
    have a2 := rdUInt_le h2
    obtain ⟨a3, hbits⟩ := rdBits_advances h3
    simp only [require_ok_iff, Bool.and_eq_true, bne_iff_ne, decide_eq_true_eq] at hlen hroom
    refine ih h ⟨mapSet_ascending hc.1, fun e he => ?_⟩ (by omega)
    rcases mem_mapSet he with rfl | he
    · exact ⟨by simp only [hbits]; omega, by simp only [hbits]; omega⟩
    · exact hc.2 e he

/-- TDES reads a table that meets CT's invariant, inside the stream (R31, R97). -/
theorem tdes_wf {s : Bytes} {p p' : Nat} {c : CodeTable} (h : tdes s p = .ok (c, p')) : CtWf c ∧ p' ≤ s.length := by
  obtain ⟨⟨n, p1⟩, h1, h⟩ := (Except.bind_ok_iff _ _ _).1 h
  obtain ⟨_, -, h⟩ := (Except.bind_ok_iff _ _ _).1 h
  obtain ⟨_, -, h⟩ := (Except.bind_ok_iff _ _ _).1 h
  exact tdesEntries_wf h ⟨.nil, fun _ he => by cases he⟩ (rdUInt_le h1)

theorem validEff_iff (e : Byte) : validEff e = true ↔ 1 ≤ e.toNat ∧ e.toNat ≤ 8 := by
  simp [validEff]

/-- A frame's fields meet the bounds of CT, EFF and PK, inside the stream (43_filecodec.md R118). -/
theorem frameRead_wf {s : Bytes} {p p' : Nat} {f : Frame} (h : frameRead s p = .ok (f, p')) :
    CtWf f.table ∧ validEff f.eff = true ∧ f.packed.length ≤ s.length ∧ p' ≤ s.length := by
  obtain ⟨⟨len, p1⟩, -, h⟩ := (Except.bind_ok_iff _ _ _).1 h
  obtain ⟨_, -, h⟩ := (Except.bind_ok_iff _ _ _).1 h
  obtain ⟨⟨e, p2⟩, -, h⟩ := (Except.bind_ok_iff _ _ _).1 h
  obtain ⟨_, he, h⟩ := (Except.bind_ok_iff _ _ _).1 h
  obtain ⟨⟨c, p3⟩, hc, h⟩ := (Except.bind_ok_iff _ _ _).1 h
  obtain ⟨⟨pk, p4⟩, hpk, h⟩ := (Except.bind_ok_iff _ _ _).1 h
  obtain ⟨hle, rfl, rfl⟩ := (rdBytes_ok_iff ..).1 hpk
  cases h
  refine ⟨(tdes_wf hc).1, (require_ok_iff ..).1 he, ?_, hle⟩
  simp only [List.length_take, List.length_drop]
  omega

/-- The bounds an entry read from the stream `s` meets, with the cursor `p` after it (44_container.md R128). -/
def EntryBounded (s : Bytes) (p : Nat) : Entry Frame → Prop
  | .stop => True
  | .dir path => path.length ≤ Config.maxStr ∧ p ≤ s.length
  | .file path f =>
    path.length ≤ Config.maxStr ∧ p ≤ s.length ∧ CtWf f.table ∧ validEff f.eff = true ∧ f.packed.length ≤ s.length

theorem entryRead_bounded {s : Bytes} {p p' : Nat} {e : Entry Frame} (h : entryRead s p = .ok (e, p')) :
    EntryBounded s p' e := by
  unfold entryRead entryReadWith at h
  split at h
  · cases h; trivial
  · obtain ⟨⟨tag, p1⟩, -, h⟩ := (Except.bind_ok_iff _ _ _).1 h
    dsimp only at h
    split at h
    · obtain ⟨⟨path, p2⟩, h2, h⟩ := (Except.bind_ok_iff _ _ _).1 h
      cases h
      exact rdStr_le h2
    · split at h
      · obtain ⟨⟨path, p2⟩, h2, h⟩ := (Except.bind_ok_iff _ _ _).1 h
        obtain ⟨⟨f, p3⟩, h3, h⟩ := (Except.bind_ok_iff _ _ _).1 h
        cases h
        obtain ⟨hc, he, hpk, hp⟩ := frameRead_wf h3
        exact ⟨(rdStr_le h2).1, hp, hc, he, hpk⟩
      · cases h

/-- A header's name is within MAX_STR, inside the stream (45_archive_header.md R136). -/
theorem headerRead_le {s n : Bytes} {p p' : Nat} {fold : Bool} (h : headerRead s p fold = .ok (n, p')) :
    n.length ≤ Config.maxStr ∧ p' ≤ s.length := by
  obtain ⟨_, -, h⟩ := (Except.bind_ok_iff _ _ _).1 h
  exact rdStr_le h

/-! ### PACK (42_bitpack.md R105) -/

theorem packBits_eff (acc k : Nat) (hk : k < 8) (x : Bits) : validEff (packBits acc k x).2 = true := by
  induction x generalizing acc k with
  | nil =>
    unfold packBits
    split
    · rw [validEff_iff, BitVec.toNat_ofNat]
      omega
    · rfl
  | cons b x ih =>
    unfold packBits
    dsimp only
    split
    · exact ih 0 0 (by omega)
    · exact ih _ _ (by omega)

/-- The effective-bit count of a packing is 1 to 8 (10_state.md R26). -/
theorem pack_eff {d o : Bytes} {c : CodeTable} {e : Byte} (h : pack d c = .ok (o, e)) : validEff e = true := by
  obtain ⟨bits, -, h⟩ := (Except.bind_ok_iff _ _ _).1 h
  obtain ⟨_, -, h⟩ := (Except.bind_ok_iff _ _ _).1 h
  cases h
  exact packBits_eff 0 0 (by omega) bits

/-- A byte without a code ends the packing with UnknownSymbol, whatever stands before it (42_bitpack.md R112). -/
theorem codeBits_unknown {c : CodeTable} {d : Bytes} {x : Byte} (hx : x ∈ d) (hc : codeOf c x = none) :
    codeBits c d = .error .unknownSymbol := by
  induction d with
  | nil => cases hx
  | cons b d ih =>
    unfold codeBits
    cases hb : codeOf c b with
    | none => rfl
    | some code =>
      have hxd : x ∈ d := (List.mem_cons.1 hx).resolve_left fun he => by rw [he, hb] at hc; cases hc
      simp only [ih hxd]
      rfl

/-- A second read that holds a byte the first did not ends the encoding with UnknownSymbol (46_operations.md R143). -/
theorem encodePasses_unknown {cap : Nat} {d1 d2 : Bytes} {x : Byte} (h2 : x ∈ d2) (h1 : x ∉ d1) :
    encodePasses cap d1 d2 = .error .unknownSymbol := by
  have hasc : Ascending (freqOf d1) :=
    (foldl_bump_within (n := 0) (f := []) d1 List.Pairwise.nil (fun _ he => by cases he)).1
  obtain ⟨hwf, hsub⟩ := buildTree_grown hasc
  unfold encodePasses
  cases hc : codesOf (buildTree (freqOf d1)) with
  | error e =>
    have hleaf := hwf.1
    cases ht : buildTree (freqOf d1) <;> simp_all [codesOf, Tree.isLeaf]
  | ok c =>
    have hnone : codeOf c x = none := by
      refine Option.eq_none_iff_forall_ne_some.2 fun v hv => h1 ?_
      obtain ⟨e, he, rfl⟩ := List.mem_map.1 (hsub ((codesOf_wf hwf hc).2 _ (mem_of_mapGet hv)))
      exact mem_of_mem_freqOf he
    show (pack d2 c >>= _) = _
    unfold pack
    rw [codeBits_unknown h2 hnone]
    rfl

end Sys2Proof.Machine
end

section
/-! PROOFS. The sessions of the operation commands with the host: the requests made and their replies, in order, up to the
first one that ends the command (20_memory.md R57; 46_operations.md R142 to R152, R163). -/

namespace Sys2Proof.Machine

open Sys2Proof.Certificates

/-- A request with the reply it got, as the trace records it (00_scope.md R17). -/
abbrev Event := HostReq × HostReply

/-! ### Serving requests one after another -/

/-- The host's side `h'` comes from `h` by the requests of `es`, each answered as the host then answers it. -/
inductive Served : HostSide → List Event → HostSide → Prop
  | done (h : HostSide) : Served h [] h
  | ask {h h' : HostSide} {es : List Event} (q : HostReq) (hs : Served h es h') :
    Served h (es ++ [(q, h'.reply q)]) (h'.after q)

namespace Served

theorem one (h : HostSide) (q : HostReq) : Served h [(q, h.reply q)] (h.after q) := (done h).ask q

theorem trans {h h' h'' : HostSide} {es es' : List Event} (h1 : Served h es h') (h2 : Served h' es' h'') :
    Served h (es ++ es') h'' := by
  induction h2 with
  | done => rwa [List.append_nil]
  | ask q _ ih => rw [← List.append_assoc]; exact ih.ask q

theorem trace {h h' : HostSide} {es : List Event} (hs : Served h es h') : h'.trace = h.trace ++ es := by
  induction hs with
  | done => exact (List.append_nil _).symm
  | ask q _ ih => rw [HostSide.after_trace, ih, List.append_assoc]

theorem files_wf {h h' : HostSide} {es : List Event} (hs : Served h es h') (hw : FsWf h.files) : FsWf h'.files := by
  induction hs with
  | done => exact hw
  | ask q _ ih => exact HostSide.after_files_wf ih

theorem archive {h h' : HostSide} {es : List Event} (hs : Served h es h') :
    h'.archive = es.foldl (fun a e => archiveAfter a e.1 e.2) h.archive := by
  induction hs with
  | done => rfl
  | ask q _ ih => rw [HostSide.after_archive, ih, List.foldl_append]; rfl

end Served

/-- MISSING answers H_STAT and H_READ only (R57). -/
theorem HostSide.reply_ne_missing {q : HostReq} (hs : ∀ p, q ≠ .stat p) (hr : ∀ p, q ≠ .read p) (h : HostSide) :
    h.reply q ≠ .missing := by
  unfold HostSide.reply replyTo
  split
  · simp
  · cases q with
    | stat p => exact absurd rfl (hs p)
    | read p => exact absurd rfl (hr p)
    | _ => simp

/-! ### Histories -/

/-- A reply that ends an operation command: MISSING or IOFAIL (R57, R142 to R152). -/
def BadReply (r : HostReply) : Prop := r = .missing ∨ r = .ioFail

/-- The error a bad reply is reported as (R166). -/
def replyError : HostReply → Err
  | .missing => .notFound
  | _ => .ioFailure

/-- The event reads a file again, right after its first read, and answers a byte that the first read did not hold. -/
def Stale (a : List Event) (ev : Event) : Prop :=
  ∃ p d1 d2 x, a.getLast? = some (.read p, .data d1) ∧ ev = (.read p, .data d2) ∧ x ∈ d2 ∧ x ∉ d1

/-- After the history `a`, the event gives no ground to end the command. -/
structure Fine (a : List Event) (ev : Event) : Prop where
  good : ¬ BadReply ev.2
  notClose : ev.1 ≠ .close
  fresh : ¬ Stale a ev

/-- After the history `a`, the event ends the command with error `e`. -/
def Trouble (a : List Event) (ev : Event) (e : Err) : Prop :=
  (BadReply ev.2 ∧ ev.1 ≠ .close ∧ e = replyError ev.2) ∨ (Stale a ev ∧ e = .unknownSymbol)

/-- Some H_CREATE was answered OK (46_operations.md R162). -/
def Opened (L : List Event) : Prop := ∃ p, (HostReq.create p, HostReply.ok) ∈ L

/-- Every event of the history is fine; the archive was opened in it exactly where `o` says so. -/
structure Tidy (o : Bool) (L : List Event) : Prop where
  fine : ∀ a ev b, L = a ++ ev :: b → Fine a ev
  opened : Opened L ↔ o = true

/-- The last event of a list is one of its events, or an earlier one is. -/
theorem concat_eq_append_cons {L a b : List Event} {z ev : Event} (h : L ++ [z] = a ++ ev :: b) :
    (b = [] ∧ a = L ∧ ev = z) ∨ ∃ b', b = b' ++ [z] ∧ L = a ++ ev :: b' := by
  rcases List.eq_nil_or_concat' b with rfl | ⟨b', w, rfl⟩
  · obtain ⟨rfl, hz⟩ := List.append_inj' h rfl
    cases hz
    exact .inl ⟨rfl, rfl, rfl⟩
  · rw [← List.cons_append, ← List.append_assoc] at h
    obtain ⟨rfl, hz⟩ := List.append_inj' h rfl
    cases hz
    exact .inr ⟨b', rfl, rfl⟩

theorem Tidy.nil : Tidy false [] := ⟨by simp, by simp [Opened]⟩

theorem opened_concat {L : List Event} {ev : Event} :
    Opened (L ++ [ev]) ↔ Opened L ∨ ∃ p, ev = (.create p, .ok) := by
  simp only [Opened, List.mem_append, List.mem_singleton, exists_or, eq_comm]

/-- A fine event that opens no archive keeps a history tidy. -/
theorem Tidy.concat {o : Bool} {L : List Event} {ev : Event} (h : Tidy o L) (hf : Fine L ev)
    (hc : ∀ p, ev ≠ (.create p, .ok)) : Tidy o (L ++ [ev]) := by
  refine ⟨fun a ev' b hL => ?_, ?_⟩
  · rcases concat_eq_append_cons hL with ⟨-, rfl, rfl⟩ | ⟨b', -, hL⟩
    · exact hf
    · exact h.fine a ev' b' hL
  · rw [opened_concat, h.opened]
    simp [hc]

theorem Fine.of_not_read {L : List Event} {q : HostReq} {r : HostReply} (hr : ¬ BadReply r) (hc : q ≠ .close)
    (hq : ∀ p, q ≠ .read p) : Fine L (q, r) :=
  ⟨hr, hc, by rintro ⟨p, d1, d2, x, -, he, -, -⟩; cases he; exact hq p rfl⟩

theorem Tidy.create {L : List Event} (h : Tidy false L) (p : Bytes) : Tidy true (L ++ [(.create p, .ok)]) := by
  refine ⟨fun a ev b hL => ?_, ?_⟩
  · rcases concat_eq_append_cons hL with ⟨-, rfl, rfl⟩ | ⟨b', -, hL⟩
    · exact .of_not_read (by simp [BadReply]) (by simp) (by simp)
    · exact h.fine a ev b' hL
  · simp [opened_concat]

/-- The history of a command up to its end or to the H_CLOSE that follows: every event is fine, but that the last one may
be the trouble that ends it. -/
inductive Session (o : Bool) : List Event → Option Err → Prop
  | tidy {L : List Event} (e : Option Err) (h : Tidy o L) : Session o L e
  | trouble {L : List Event} {ev : Event} {e : Err} (h : Tidy o L) (ht : Trouble L ev e) : Session o (L ++ [ev]) (some e)

theorem Session.bad {o : Bool} {L : List Event} {q : HostReq} {r : HostReply} (h : Tidy o L) (hr : BadReply r)
    (hc : q ≠ .close) : Session o (L ++ [(q, r)]) (some (replyError r)) :=
  .trouble h (.inl ⟨hr, hc, rfl⟩)

/-- The whole history of an operation command: it ends before an archive is open, or with the archive open by an error and
the H_CLOSE after it, or with the H_CLOSE of a complete archive (R163). `early` bounds the errors of the first kind, `late`
those of the second. -/
inductive Finished (early late : Err → Prop) : List Event → Option Err → Prop
  | unopened {L : List Event} {e : Option Err} (h : Session false L e) (he : ∀ x, e = some x → early x) :
    Finished early late L e
  | aborted {L : List Event} {e : Err} {r : HostReply} (h : Session true L (some e)) (he : late e) (hr : r ≠ .missing) :
    Finished early late (L ++ [(.close, r)]) (some e)
  | closed {L : List Event} {r : HostReply} (h : Tidy true L) (hr : r ≠ .missing) :
    Finished early late (L ++ [(.close, r)]) (if r = .ioFail then some .ioFailure else none)

theorem Finished.imp {early late early' late' : Err → Prop} {L : List Event} {e : Option Err}
    (h : Finished early late L e) (hearly : ∀ x, early x → early' x) (hlate : ∀ x, late x → late' x) :
    Finished early' late' L e := by
  cases h with
  | unopened hs he => exact .unopened hs fun x hx => hearly x (he x hx)
  | aborted hs he hr => exact .aborted hs (hlate _ he) hr
  | closed ht hr => exact .closed ht hr

/-! ### What a history says of each of its events -/

theorem Trouble.ne_close {a : List Event} {ev : Event} {e : Err} (h : Trouble a ev e) : ev.1 ≠ .close := by
  rcases h with ⟨-, h, -⟩ | ⟨⟨p, d1, d2, x, -, rfl, -, -⟩, -⟩
  · exact h
  · simp

theorem Trouble.ne_create {a : List Event} {ev : Event} {e : Err} (h : Trouble a ev e) (p : Bytes) :
    ev ≠ (.create p, .ok) := by
  rintro rfl
  rcases h with ⟨h, -, -⟩ | ⟨⟨p, d1, d2, x, -, h, -, -⟩, -⟩
  · simp [BadReply] at h
  · cases h

theorem Stale.not_bad {a : List Event} {ev : Event} (h : Stale a ev) : ¬ BadReply ev.2 := by
  obtain ⟨p, d1, d2, x, -, rfl, -, -⟩ := h
  simp [BadReply]

theorem Trouble.of_bad {a : List Event} {ev : Event} {e : Err} (h : Trouble a ev e) (hb : BadReply ev.2) :
    e = replyError ev.2 := by
  rcases h with ⟨-, -, h⟩ | ⟨hs, -⟩
  · exact h
  · exact absurd hb hs.not_bad

theorem Trouble.of_stale {a : List Event} {ev : Event} {e : Err} (h : Trouble a ev e) (hs : Stale a ev) :
    e = .unknownSymbol := by
  rcases h with ⟨hb, -, -⟩ | ⟨-, h⟩
  · exact absurd hb hs.not_bad
  · exact h

/-- An event that is not fine is the trouble at a session's end. -/
theorem Session.locate {o : Bool} {L a b : List Event} {ev : Event} {e : Option Err} (h : Session o L e)
    (hL : L = a ++ ev :: b) (hn : ¬ Fine a ev) : b = [] ∧ (Opened a ↔ o = true) ∧ ∃ x, e = some x ∧ Trouble a ev x := by
  cases h with
  | tidy e ht => exact absurd (ht.fine a ev b hL) hn
  | trouble ht htr =>
    rcases concat_eq_append_cons hL with ⟨rfl, rfl, rfl⟩ | ⟨b', -, hL⟩
    · exact ⟨rfl, ht.opened, _, rfl, htr⟩
    · exact absurd (ht.fine a ev b' hL) hn

/-- An event that is not fine ends the command: no request follows it but the H_CLOSE of an open archive; or it is an
H_CLOSE itself, the last request. -/
theorem Finished.locate {early late : Err → Prop} {L a b : List Event} {ev : Event} {e : Option Err}
    (h : Finished early late L e) (hL : L = a ++ ev :: b) (hn : ¬ Fine a ev) :
    (∃ x, e = some x ∧ Trouble a ev x ∧
      ((b = [] ∧ ¬ Opened a ∧ early x) ∨ ((∃ r, b = [(.close, r)]) ∧ Opened a ∧ late x))) ∨
    (ev.1 = .close ∧ b = [] ∧ ev.2 ≠ .missing ∧ (ev.2 = .ioFail → ∃ x, e = some x ∧ (x = .ioFailure ∨ late x))) := by
  cases h with
  | unopened hs he =>
    obtain ⟨rfl, ho, x, rfl, ht⟩ := hs.locate hL hn
    exact .inl ⟨x, rfl, ht, .inl ⟨rfl, by simp [ho], he x rfl⟩⟩
  | aborted hs he hr =>
    rcases concat_eq_append_cons hL with ⟨rfl, rfl, rfl⟩ | ⟨b', rfl, hL'⟩
    · exact .inr ⟨rfl, rfl, hr, fun _ => ⟨_, rfl, .inr he⟩⟩
    · obtain ⟨rfl, ho, x, hx, ht⟩ := hs.locate hL' hn
      cases hx
      exact .inl ⟨_, rfl, ht, .inr ⟨⟨_, rfl⟩, ho.2 rfl, he⟩⟩
  | closed ht hr =>
    rcases concat_eq_append_cons hL with ⟨rfl, rfl, rfl⟩ | ⟨b', rfl, hL'⟩
    · exact .inr ⟨rfl, rfl, hr, fun hf => ⟨_, if_pos hf, .inl rfl⟩⟩
    · exact absurd (ht.fine a ev b' hL') hn

theorem Session.not_close {o : Bool} {L : List Event} {e : Option Err} (h : Session o L e) : ∀ ev ∈ L, ev.1 ≠ .close := by
  have tidy : ∀ L, Tidy o L → ∀ ev ∈ L, ev.1 ≠ .close := fun L ht ev hev => by
    obtain ⟨a, b, rfl⟩ := List.append_of_mem hev
    exact (ht.fine a ev b rfl).notClose
  cases h with
  | tidy e ht => exact tidy _ ht
  | trouble ht htr =>
    intro ev hev
    rcases List.mem_append.1 hev with hev | hev
    · exact tidy _ ht ev hev
    · rw [List.mem_singleton.1 hev]
      exact htr.ne_close

theorem Session.opened {o : Bool} {L : List Event} {e : Option Err} (h : Session o L e) : Opened L ↔ o = true := by
  cases h with
  | tidy e ht => exact ht.opened
  | trouble ht htr => simp [opened_concat, htr.ne_create, ht.opened]

/-- Where no H_CREATE was answered OK, no archive becomes open. -/
theorem foldl_archive_none {L : List Event} (h : ¬ Opened L) :
    L.foldl (fun a e => archiveAfter a e.1 e.2) none = none := by
  induction L using List.reverseRecOn with
  | nil => rfl
  | append_singleton L ev ih =>
    rw [opened_concat, not_or, not_exists] at h
    rw [List.foldl_append, ih h.1]
    obtain ⟨q, r⟩ := ev
    cases q with
    | create p =>
      cases r with
      | ok => exact absurd rfl (h.2 p)
      | _ => rfl
    | _ => cases r <;> rfl

theorem Finished.archive {early late : Err → Prop} {L : List Event} {e : Option Err} (h : Finished early late L e) :
    L.foldl (fun a e => archiveAfter a e.1 e.2) none = none := by
  cases h with
  | unopened hs he => exact foldl_archive_none (by simp [hs.opened])
  | aborted | closed => rw [List.foldl_append]; rfl

/-- Where an archive was opened, H_CLOSE is the last request, and where none was, none is made (R163). -/
theorem Finished.closes {early late : Err → Prop} {L : List Event} {e : Option Err} (h : Finished early late L e) :
    (Opened L → (L.getLast?).map Prod.fst = some .close) ∧ (¬ Opened L → ∀ ev ∈ L, ev.1 ≠ .close) := by
  cases h with
  | unopened hs he => exact ⟨fun ho => absurd ho (by simp [hs.opened]), fun _ => hs.not_close⟩
  | aborted hs => exact ⟨by simp, fun hn => absurd (opened_concat.2 (.inl (hs.opened.2 rfl))) hn⟩
  | closed ht => exact ⟨by simp, fun hn => absurd (opened_concat.2 (.inl (ht.opened.2 rfl))) hn⟩

/-! ### Rules for programs of requests -/

/-- After the history `L`, on any host, the action serves some requests and ends with `Q` of its value and the history
then, or with `E` of its error and the history then. -/
def Runs {α : Type} (L : List Event) (x : Act α) (Q : α → List Event → Prop) (E : Err → List Event → Prop) : Prop :=
  ∀ h, ∃ es, Served h es (x h).2 ∧ (∀ a, (x h).1 = .ok a → Q a (L ++ es)) ∧ ∀ e, (x h).1 = .error e → E e (L ++ es)

namespace Runs

variable {α β : Type} {L : List Event} {Q : α → List Event → Prop} {E : Err → List Event → Prop}

theorem pure {a : α} (h : Q a L) : Runs L (Act.pure a) Q E :=
  fun hs => ⟨[], .done hs, fun _ he => by cases he; simpa using h, fun _ he => by cases he⟩

theorem raise {e : Err} (h : E e L) : Runs L (Act.raise e : Act α) Q E :=
  fun hs => ⟨[], .done hs, fun _ he => (by cases he), fun _ he => by cases he; simpa using h⟩

theorem lift {r : Except Err α} (hQ : ∀ a, r = .ok a → Q a L) (hE : ∀ e, r = .error e → E e L) :
    Runs L (Act.lift r) Q E :=
  fun hs => ⟨[], .done hs, fun a ha => by simpa using hQ a ha, fun e he => by simpa using hE e he⟩

theorem bind {x : Act β} {f : β → Act α} {R : β → List Event → Prop} (hx : Runs L x R E)
    (hf : ∀ b L', R b L' → Runs L' (f b) Q E) : Runs L (x.bind f) Q E := by
  intro h
  obtain ⟨es, hs, hR, hE⟩ := hx h
  unfold Act.bind
  split
  · next b h' hb =>
    rw [hb] at hs hR
    obtain ⟨es', hs', hQ', hE'⟩ := hf b (L ++ es) (hR b rfl) h'
    rw [List.append_assoc] at hQ' hE'
    exact ⟨es ++ es', hs.trans hs', hQ', hE'⟩
  · next e h' he =>
    rw [he] at hs hE
    exact ⟨es, hs, fun _ ha => (by cases ha), fun e' he' => by cases he'; exact hE e rfl⟩

theorem ask_bind {q : HostReq} {f : HostReply → Act α}
    (hf : ∀ h : HostSide, Runs (L ++ [(q, h.reply q)]) (f (h.reply q)) Q E) : Runs L ((Machine.ask q).bind f) Q E := by
  intro h
  obtain ⟨es, hs, hQ, hE⟩ := hf h (h.after q)
  rw [List.append_assoc] at hQ hE
  exact ⟨_, (Served.one h q).trans hs, hQ, hE⟩

theorem imp {x : Act α} {Q' : α → List Event → Prop} {E' : Err → List Event → Prop} (hx : Runs L x Q E)
    (hQ : ∀ a L', Q a L' → Q' a L') (hE : ∀ e L', E e L' → E' e L') : Runs L x Q' E' := by
  intro h
  obtain ⟨es, hs, hQ1, hE1⟩ := hx h
  exact ⟨es, hs, fun a ha => hQ a _ (hQ1 a ha), fun e he => hE e _ (hE1 e he)⟩

/-- An error with the archive open is followed by H_CLOSE, whatever it is answered (R163). -/
theorem closingOnError {x : Act α} (hx : Runs L x Q E) :
    Runs L (Machine.closingOnError x) Q
      (fun e L' => ∃ L0 r, L' = L0 ++ [(.close, r)] ∧ r ≠ .missing ∧ E e L0) := by
  intro h
  obtain ⟨es, hs, hQ, hE⟩ := hx h
  rw [closingOnError_apply]
  split
  · next b h' hb =>
    rw [hb] at hs hQ
    exact ⟨es, hs, hQ, fun _ he => by cases he⟩
  · next e h' he =>
    rw [he] at hs hE
    refine ⟨_, hs.ask .close, fun _ ha => (by cases ha), fun e' he' => ?_⟩
    cases he'
    exact ⟨_, _, (List.append_assoc _ _ _).symm, HostSide.reply_ne_missing (by simp) (by simp) _, hE e rfl⟩

end Runs

/-- A part of a command that runs while the archive is open, or while none is, as `o` says. -/
abbrev RunsTidy {α : Type} (o : Bool) (L : List Event) (x : Act α) : Prop :=
  Runs L x (fun _ => Tidy o) (fun e L' => Session o L' (some e))

/-- An append, a directory or a file to write: the requests that change the filesystem with no part in opening or closing
the archive. -/
def HostReq.isPlainWrite : HostReq → Bool
  | .append _ => true
  | .mkdirs _ => true
  | .writeFile _ _ => true
  | _ => false

variable {o : Bool} {L : List Event}

theorem runs_demand {q : HostReq} (hq : q.isPlainWrite = true) (hL : Tidy o L) : RunsTidy o L (demand q) := by
  have hnc : q ≠ .close ∧ (∀ p, q ≠ .create p) ∧ (∀ p, q ≠ .read p) ∧ ∀ p, q ≠ .stat p := by
    cases q <;> simp_all [HostReq.isPlainWrite]
  obtain ⟨hclose, hcreate, hread, hstat⟩ := hnc
  refine .ask_bind fun h => ?_
  have hm := h.reply_ne_missing hstat hread
  split
  · next hr =>
    rw [hr]
    exact .raise (.bad hL (.inr rfl) hclose)
  · next hr =>
    refine .pure (hL.concat (.of_not_read (by simp [BadReply, hm, hr]) hclose hread) fun p he => ?_)
    exact hcreate p (Prod.mk.inj he).1

theorem runs_readFile (path : Bytes) (hL : Tidy o L) :
    Runs L (readFile path) (fun d L' => L' = L ++ [(.read path, .data d)]) (fun e L' => Session o L' (some e)) := by
  have other : ∀ r : HostReply, ¬ BadReply r → (∀ d, r ≠ .data d) → Tidy o (L ++ [(.read path, r)]) :=
    fun r hr hd => hL.concat ⟨hr, by simp, by
      rintro ⟨p, d1, d2, x, -, he, -, -⟩
      cases he
      exact hd d2 rfl⟩ (by simp)
  refine .ask_bind fun h => ?_
  cases hr : h.reply (.read path) with
  | data d => exact .pure rfl
  | ioFail => exact .raise (.bad hL (.inr rfl) (by simp))
  | missing => exact .raise (.bad hL (.inl rfl) (by simp))
  | file => exact .raise (.tidy _ (other _ (by simp [BadReply]) (by simp)))
  | dir => exact .raise (.tidy _ (other _ (by simp [BadReply]) (by simp)))
  | names ns => exact .raise (.tidy _ (other _ (by simp [BadReply]) (by simp)))
  | ok => exact .raise (.tidy _ (other _ (by simp [BadReply]) (by simp)))

/-- A read of a path that was not read just before. -/
theorem Tidy.read {p d : Bytes} (hL : Tidy o L) (hlast : ∀ c, L.getLast? ≠ some (.read p, .data c)) :
    Tidy o (L ++ [(.read p, .data d)]) := by
  refine hL.concat ⟨by simp [BadReply], by simp, ?_⟩ (by simp)
  rintro ⟨p', d1, d2, x, hl, he, -, -⟩
  cases he
  exact hlast d1 hl

theorem runs_readArchive (cap : Nat) (e : Err) (path : Bytes) :
    RunsTidy false [] (readArchive cap e path) := by
  refine (runs_readFile path .nil).bind fun d L' hL' => ?_
  subst hL'
  have ht : Tidy false ([] ++ [(.read path, .data d)]) := Tidy.nil.read (by simp)
  split
  · exact .pure ht
  · exact .raise (.tidy _ ht)

/-- The two reads of a file to compress: the second may not bring a byte that the first did not (R143). -/
theorem runs_encodeHostFile (cap : Nat) (path : Bytes) (hL : Tidy o L)
    (hlast : ∀ c, L.getLast? ≠ some (.read path, .data c)) : RunsTidy o L (encodeHostFile cap path) := by
  refine (runs_readFile path hL).bind fun d1 L1 hL1 => ?_
  have ht1 : Tidy o L1 := hL1 ▸ hL.read hlast
  refine (runs_readFile path ht1).bind fun d2 L2 hL2 => ?_
  subst hL2
  by_cases hx : ∃ x, x ∈ d2 ∧ x ∉ d1
  · obtain ⟨x, h2, h1⟩ := hx
    have hst : Stale L1 (.read path, .data d2) := ⟨path, d1, d2, x, by simp [hL1], rfl, h2, h1⟩
    rw [encodePasses_unknown h2 h1]
    exact .raise (.trouble ht1 (.inr ⟨hst, rfl⟩))
  · have ht2 : Tidy o (L1 ++ [(.read path, .data d2)]) := by
      refine ht1.concat ⟨by simp [BadReply], by simp, ?_⟩ (by simp)
      rintro ⟨p, c1, c2, x, hl, he, h2, h1⟩
      cases he
      simp only [hL1, List.getLast?_append, List.getLast?_singleton, Option.some_or, Option.some.injEq, Prod.mk.injEq,
        HostReply.data.injEq, true_and] at hl
      subst hl
      exact hx ⟨x, h2, h1⟩
    exact .lift (fun _ _ => ht2) (fun e _ => .tidy _ ht2)

theorem runs_emitBuilt (cap : Nat) (r : Except Err Bytes) (hL : Tidy o L) : RunsTidy o L (emitBuilt cap r) :=
  Runs.bind (R := fun _ => Tidy o) (.lift (fun _ _ => hL) fun _ _ => .tidy _ hL) fun _ _ hL' => runs_demand rfl hL'

/-- H_STAT, whose reply is fine or bad. -/
theorem Tidy.stat {p : Bytes} {r : HostReply} (hL : Tidy o L) (hr : ¬ BadReply r) : Tidy o (L ++ [(.stat p, r)]) :=
  hL.concat (.of_not_read hr (by simp) (by simp)) (by simp)

theorem runs_listNames (dir : Bytes) (hL : Tidy o L) : RunsTidy o L (listNames dir) := by
  refine .ask_bind fun h => ?_
  have hm := h.reply_ne_missing (q := .list dir) (by simp) (by simp)
  by_cases hf : h.reply (.list dir) = .ioFail
  · rw [hf]
    exact .raise (.bad hL (.inr rfl) (by simp))
  · have ht : Tidy o (L ++ [(.list dir, h.reply (.list dir))]) :=
      hL.concat (.of_not_read (by simp [BadReply, hm, hf]) (by simp) (by simp)) (by simp)
    split
    · exact .pure ht
    · exact .raise (.tidy _ ht)

theorem runs_forNames {step : Bytes → Act Unit} (hs : ∀ nm L, Tidy o L → RunsTidy o L (step nm)) (ns : List Bytes)
    (hL : Tidy o L) : RunsTidy o L (forNames step ns) := by
  induction ns generalizing L with
  | nil => exact .pure hL
  | cons nm ns ih => exact (hs nm L hL).bind fun _ _ hL' => ih hL'

theorem runs_walk (cap levels : Nat) (dir rel : Bytes) (hL : Tidy o L) : RunsTidy o L (walk cap levels dir rel) := by
  induction levels generalizing dir rel L with
  | zero => exact .raise (.tidy _ hL)
  | succ levels ih =>
    refine (runs_listNames dir hL).bind fun ns L1 hL1 => runs_forNames (fun nm L2 hL2 => ?_) ns hL1
    refine .ask_bind fun h => ?_
    cases h.reply (.stat (join dir nm)) with
    | ioFail => exact .raise (.bad hL2 (.inr rfl) (by simp))
    | missing => exact .raise (.bad hL2 (.inl rfl) (by simp))
    | dir =>
      exact (runs_emitBuilt cap _ (hL2.stat (by simp [BadReply]))).bind fun _ _ hL3 => ih _ _ hL3
    | file =>
      exact (runs_encodeHostFile cap _ (hL2.stat (by simp [BadReply])) (by simp)).bind fun _ _ hL3 =>
        runs_emitBuilt cap _ hL3
    | names | data | ok => exact .raise (.tidy _ (hL2.stat (by simp [BadReply])))

theorem runs_applyFile (cap : Nat) (base q : Bytes) (f : Frame) (hL : Tidy o L) :
    RunsTidy o L (applyFile cap base q f) := by
  refine Runs.bind (R := fun _ => Tidy o) (.lift (fun _ _ => hL) fun _ _ => .tidy _ hL) fun d L1 hL1 =>
    Runs.bind (R := fun _ => Tidy o) ?_ fun _ L2 hL2 => runs_demand rfl hL2
  split
  · exact .pure hL1
  · exact runs_demand rfl hL1

theorem runs_applyEntries (cap : Nat) (base a : Bytes) (fuel p : Nat) (hL : Tidy o L) :
    RunsTidy o L (applyEntries cap base a fuel p) := by
  induction fuel generalizing p L with
  | zero => exact .pure hL
  | succ fuel ih =>
    refine Runs.bind (R := fun _ => Tidy o) (.lift (fun _ _ => hL) fun _ _ => .tidy _ hL) fun ep L1 hL1 => ?_
    split
    · exact .pure hL1
    · split
      · exact (runs_demand rfl hL1).bind fun _ _ hL2 => ih _ hL2
      · exact .raise (.tidy _ hL1)
    · split
      · exact (runs_applyFile _ _ _ _ hL1).bind fun _ _ hL2 => ih _ hL2
      · exact .raise (.tidy _ hL1)

theorem runs_decompressFile (cap : Nat) (pin pdst : Bytes) : RunsTidy false [] (decompressFile cap pin pdst) :=
  (runs_readArchive cap _ pin).bind fun _ _ hL1 =>
    Runs.bind (R := fun _ => Tidy false) (.lift (fun _ _ => hL1) fun _ _ => .tidy _ hL1) fun _ _ hL2 =>
      runs_demand rfl hL2

theorem runs_decompressDirectory (cap : Nat) (pin pdst : Bytes) :
    RunsTidy false [] (decompressDirectory cap pin pdst) :=
  (runs_readArchive cap _ pin).bind fun _ _ hL1 =>
    Runs.bind (R := fun _ => Tidy false) (.lift (fun _ _ => hL1) fun _ _ => .tidy _ hL1) fun _ _ hL2 =>
      (runs_demand rfl hL2).bind fun _ _ hL3 => runs_applyEntries _ _ _ _ _ hL3

/-! ### The commands that write an archive -/

/-- A command's whole history, from its first request on. -/
abbrev RunsFinished (early late : Err → Prop) (L : List Event) (x : Act Unit) : Prop :=
  Runs L x (fun _ L' => Finished early late L' none) (fun e L' => Finished early late L' (some e))

theorem RunsFinished.mono {early late early' late' : Err → Prop} {x : Act Unit} (h : RunsFinished early late L x)
    (hearly : ∀ e, early e → early' e) (hlate : ∀ e, late e → late' e) : RunsFinished early' late' L x :=
  Runs.imp h (fun _ _ hf => hf.imp hearly hlate) fun _ _ hf => hf.imp hearly hlate

/-- The archive is opened, written by `body`, and closed, whatever ends it (R162, R163). -/
theorem runs_archive {early late : Err → Prop} {body : Act Unit} (out : Bytes) (hL : Tidy false L)
    (hearly : early .ioFailure)
    (hbody : ∀ L, Tidy true L → Runs L body (fun _ => Tidy true) (fun e L' => Session true L' (some e) ∧ late e)) :
    RunsFinished early late L
      ((demand (.create out)).bind fun _ => (closingOnError body).bind fun _ => demand .close) := by
  refine Runs.bind (R := fun _ => Tidy true) ?_ fun _ L1 hL1 =>
    Runs.bind (R := fun _ => Tidy true) (((hbody L1 hL1).closingOnError).imp (fun _ _ h => h) ?_) fun _ L2 hL2 => ?_
  · refine .ask_bind fun h => ?_
    have hr : h.reply (.create out) = if h.draw.fail then .ioFail else .ok :=
      replyTo_write _ _ _ (.inl ⟨out, rfl⟩)
    cases hf : h.draw.fail with
    | true =>
      simp only [hf, if_true] at hr
      rw [hr]
      exact .raise (.unopened (.bad hL (.inr rfl) (by simp)) fun x hx => by cases hx; exact hearly)
    | false =>
      simp only [hf, Bool.false_eq_true, if_false] at hr
      rw [hr]
      exact .pure (hL.create out)
  · rintro e _ ⟨L0, r, rfl, hr, hs, hlate⟩
    exact .aborted hs hlate hr
  · refine .ask_bind fun h => ?_
    have hm := h.reply_ne_missing (q := .close) (by simp) (by simp)
    have hc := Finished.closed (early := early) (late := late) hL2 hm
    split
    · next hr => exact .raise (by simpa only [hr, if_true] using hc)
    · next hr => exact .pure (by simpa only [hr, if_false] using hc)

/-- CFILE: once the archive is open only a failed append can end it early (R142). -/
theorem runs_compressFile (cap : Nat) (ext pin pout : Bytes) :
    RunsFinished (fun _ => True) (fun e => e = .ioFailure) [] (compressFile cap ext pin pout) := by
  have unopened : ∀ {L e}, Session false L e → Finished (fun _ => True) (fun e => e = Err.ioFailure) L e :=
    fun h => .unopened h fun _ _ => trivial
  refine .ask_bind fun h => ?_
  cases h.reply (.stat pin) with
  | ioFail => exact .raise (unopened (.bad .nil (.inr rfl) (by simp)))
  | missing => exact .raise (unopened (.bad .nil (.inl rfl) (by simp)))
  | file =>
    have ht : Tidy false ([] ++ [(.stat pin, .file)]) := Tidy.nil.stat (by simp [BadReply])
    dsimp only
    split
    · refine ((runs_encodeHostFile cap pin ht (by simp)).imp (fun _ _ h => h) fun _ _ => unopened).bind fun f L1 hL1 =>
        Runs.bind (R := fun _ => Tidy false) (.lift (fun _ _ => hL1) fun _ _ => unopened (.tidy _ hL1)) fun out L2 hL2 =>
          runs_archive _ hL2 trivial fun L3 hL3 h3 => ?_
      obtain ⟨es, hs, hQ, hE⟩ := runs_demand (q := .append out) rfl hL3 h3
      exact ⟨es, hs, hQ, fun e he => ⟨hE e he, List.mem_singleton.1 (Act.Raises.demand _ h3 e he)⟩⟩
    · exact .raise (unopened (.tidy _ ht))
  | dir | names | data | ok => exact .raise (unopened (.tidy _ (Tidy.nil.stat (by simp [BadReply]))))

/-- CDIR: before the archive is open only a bad reply or a bad name ends it (R145). -/
theorem runs_compressDirectory (cap depth : Nat) (ext pin pout : Bytes) :
    RunsFinished (fun e => e ≠ .unknownSymbol) (fun _ => True) [] (compressDirectory cap depth ext pin pout) := by
  have unopened : ∀ {L e}, Session false L (some e) → e ≠ .unknownSymbol →
      Finished (fun e => e ≠ Err.unknownSymbol) (fun _ => True) L (some e) :=
    fun h he => .unopened h fun _ hx => by cases hx; exact he
  refine .ask_bind fun h => ?_
  cases h.reply (.stat pin) with
  | ioFail => exact .raise (unopened (.bad .nil (.inr rfl) (by simp)) (by decide))
  | missing => exact .raise (unopened (.bad .nil (.inl rfl) (by simp)) (by decide))
  | dir =>
    have ht : Tidy false ([] ++ [(.stat pin, .dir)]) := Tidy.nil.stat (by simp [BadReply])
    dsimp only
    split
    · refine runs_archive _ ht (by decide) fun L1 hL1 => Runs.imp ?_ (fun _ _ h => h) fun _ _ h => ⟨h, trivial⟩
      exact (runs_emitBuilt cap _ hL1).bind fun _ _ hL2 => runs_walk _ _ _ _ hL2
    · exact .raise (unopened (.tidy _ ht) (by decide))
  | file | names | data | ok =>
    exact .raise (unopened (.tidy _ (Tidy.nil.stat (by simp [BadReply]))) (by decide))

/-! ### The histories of all commands -/

/-- The errors a command may end with before it opens an archive. -/
def EarlyErr (i : Instr) (e : Err) : Prop := i = .cdir → e ≠ .unknownSymbol

/-- The errors a command may end with while its archive is open. -/
def LateErr (i : Instr) (e : Err) : Prop := i = .cfile → e = .ioFailure

/-- The host's side after an operation command comes from a finished history, whose error STATUS.ERR reports. -/
def EndsFinished (i : Instr) (s t : State) : Prop :=
  ∃ es e, Served s.host es t.host ∧ Finished (EarlyErr i) (LateErr i) es e ∧ t.err = endCode e

theorem operate_finished {i : Instr} {act : Act Unit} (s : State)
    (h : RunsFinished (EarlyErr i) (LateErr i) [] act) (op : Byte) : EndsFinished i s (s.operate op act) := by
  obtain ⟨es, hs, hQ, hE⟩ := h s.host
  rw [State.operate_eq]
  refine ⟨es, resultError (act s.host).1, hs, ?_, State.err_setStatus _ _ _⟩
  cases hr : (act s.host).1 with
  | ok u => exact hQ u hr
  | error e => exact hE e hr

theorem RunsTidy.finished {early late : Err → Prop} {x : Act Unit} (h : RunsTidy false L x) (he : ∀ e, early e) :
    RunsFinished early late L x :=
  Runs.imp h (fun _ _ ht => .unopened (.tidy _ ht) fun x _ => he x) fun _ _ hs => .unopened hs fun x _ => he x

theorem prev_finished (s : State) : EndsFinished .prev s s.afterPrev := by
  obtain ⟨es, hs, hQ, hE⟩ := runs_readArchive s.cap .ioFailure s.pin s.host
  have early : ∀ {e : Option Err} x, e = some x → EarlyErr .prev x := fun _ _ h => by cases h
  refine ⟨es, (preview s.cap s.pin s.host).1.error, ?_, .unopened ?_ early, State.err_setStatus _ _ _⟩
  · show Served s.host es (preview s.cap s.pin s.host).2
    unfold preview
    split <;> next hr => rw [hr] at hs; exact hs
  · unfold preview
    split
    · next hr => exact .tidy _ (hQ _ (congrArg Prod.fst hr))
    · next hr => exact hE _ (congrArg Prod.fst hr)

/-- Every operation command ends with a finished history (R142 to R152, R158, R163). -/
theorem operation_finished {i : Instr} (hi : primitive i = false) {s t : State} (h : exec i s = .next t) :
    EndsFinished i s t := by
  have hall : ∀ {i}, i ≠ .cdir → ∀ e, EarlyErr i e := fun h _ hi => absurd hi h
  by_cases hp : i = .prev
  · subst hp
    rw [exec_prev] at h
    cases h
    exact prev_finished s
  · rw [exec_operation hi hp] at h
    cases h
    refine operate_finished s ?_ _
    rcases operation_cases hi with rfl | rfl | rfl | rfl | rfl
    · exact (runs_compressFile _ _ _ _).mono (fun e _ => hall (by decide) e) fun _ he _ => he
    · exact (runs_decompressFile _ _ _).finished (hall (by decide))
    · exact (runs_compressDirectory _ _ _ _ _).mono (fun _ he _ => he) fun _ _ hc => by cases hc
    · exact (runs_decompressDirectory _ _ _).finished (hall (by decide))
    · exact absurd rfl hp

end Sys2Proof.Machine
end

section
/-! PROOFS. HOST_WRITE by cases, the invariant of the registers under every update, and the commands' independence of
STATUS (10_state.md R21 to R34). -/

namespace Sys2Proof.Machine

open Sys2Proof.Certificates

/-! ### The host's writes (R22, R34) -/

/-- The registers the host may write, but for CMD, which is a port (R22, R23). -/
abbrev writable : List Nat := [2, 3, 4, 5, 7, 8, 9, 10, 12, 13, 14]

/-- What an accepted HOST_WRITE does: it writes its own register, or nothing. -/
inductive HostWritten (s : State) : Nat → RegValue → State → Prop
  | din {b} (h : b.length ≤ s.cap) : HostWritten s 2 (.bytes b) { s with din := b }
  | dout {b} (h : b.length ≤ s.cap) : HostWritten s 3 (.bytes b) { s with dout := b }
  | pos {p} (h : p < 2 ^ 64) : HostWritten s 4 (.nat p) { s with pos := p }
  | ft {f} (h : FtWf f) : HostWritten s 5 (.freqs f) { s with ft := f }
  | ct {c} (h : CtWf c) : HostWritten s 7 (.table c) { s with ct := c }
  | pk {b} (h : b.length ≤ s.cap) : HostWritten s 8 (.bytes b) { s with pk := b }
  | eff {e} : HostWritten s 9 (.byte e) { s with eff := e }
  | name {b} (h : b.length ≤ Config.maxStr) : HostWritten s 10 (.bytes b) { s with name := b }
  | pin {b} (h : inputForm b = true) : HostWritten s 12 (.bytes b) { s with pin := b }
  | pout {b} (h : hostForm b = true) : HostWritten s 13 (.bytes b) { s with pout := b }
  | pdst {b} (h : hostForm b = true) : HostWritten s 14 (.bytes b) { s with pdst := b }
  | ignored {n v} (h : n ∈ [1, 6, 11, 15] ∨ 16 ≤ n) : HostWritten s n v s

theorem HostWritten.of_ite {s t u : State} {n : Nat} {v : RegValue} {p : Prop} [Decidable p]
    (hw : p → HostWritten s n v u) (h : (if p then some u else none) = some t) : HostWritten s n v t := by
  obtain ⟨hp, h⟩ := Option.ite_none_right_eq_some.1 h
  cases h
  exact hw hp

theorem hostWrite_ignored {n : Nat} (h : n ∈ [1, 6, 11, 15] ∨ 16 ≤ n) (v : RegValue) (s : State) :
    s.hostWrite n v = some s := by
  simp only [List.mem_cons, List.not_mem_nil, or_false] at h
  rcases h with (rfl | rfl | rfl | rfl) | h
  · cases v <;> rfl
  · cases v <;> rfl
  · cases v <;> rfl
  · cases v <;> rfl
  · obtain ⟨k, rfl⟩ := Nat.exists_eq_add_of_le' h
    cases v <;> rfl

theorem hostWrite_eq_some_iff {n : Nat} {v : RegValue} {s t : State} :
    s.hostWrite n v = some t ↔ HostWritten s n v t := by
  constructor
  · intro h
    by_cases hn : n ∈ [1, 6, 11, 15] ∨ 16 ≤ n
    · rw [hostWrite_ignored hn] at h
      cases h
      exact .ignored hn
    · unfold State.hostWrite at h
      split at h
      case h_1 => exact .of_ite .din h
      case h_2 => exact .of_ite .dout h
      case h_3 => exact .of_ite .pos h
      case h_4 => exact .of_ite .ft h
      case h_5 => exact .of_ite .ct h
      case h_6 => exact .of_ite .pk h
      case h_7 => cases h; exact .eff
      case h_8 => exact .of_ite .name h
      case h_9 => exact .of_ite .pin h
      case h_10 => exact .of_ite .pout h
      case h_11 => exact .of_ite .pdst h
      case h_24 =>
        have hlt : n < 16 := by omega
        exfalso
        interval_cases n <;> simp_all
      all_goals cases h
  · intro h
    cases h with
    | ignored h => exact hostWrite_ignored h _ _
    | eff => rfl
    | _ h => exact if_pos h

/-- A writable register takes exactly the values that fit it (D39). -/
theorem hostWritten_iff_fits {n : Nat} (hn : n ∈ writable) (v : RegValue) (s : State) :
    (∃ t, HostWritten s n v t) ↔ FitsRegister s.cap n v := by
  constructor
  · rintro ⟨t, h⟩
    cases h with
    | ignored h =>
      simp only [writable, List.mem_cons, List.not_mem_nil, or_false] at hn h
      omega
    | eff => simp [FitsRegister]
    | _ h => simpa [FitsRegister] using h
  · rintro (⟨rfl | rfl | rfl, b, rfl, h⟩ | ⟨rfl, p, rfl, h⟩ | ⟨rfl, f, rfl, h⟩ | ⟨rfl, c, rfl, h⟩ | ⟨rfl, e, rfl⟩ |
      ⟨rfl, b, rfl, h⟩ | ⟨rfl, b, rfl, h⟩ | ⟨rfl | rfl, b, rfl, h⟩)
    · exact ⟨_, .din h⟩
    · exact ⟨_, .dout h⟩
    · exact ⟨_, .pk h⟩
    · exact ⟨_, .pos h⟩
    · exact ⟨_, .ft h⟩
    · exact ⟨_, .ct h⟩
    · exact ⟨_, .eff⟩
    · exact ⟨_, .name h⟩
    · exact ⟨_, .pin h⟩
    · exact ⟨_, .pout h⟩
    · exact ⟨_, .pdst h⟩

/-- What HOST_READ answers at the numbers 0 to 15 (R21, R22). -/
def State.reads (s : State) : List RegValue :=
  [.word 0, .word s.status, .bytes s.din, .bytes s.dout, .nat s.pos, .freqs s.ft, .noTree, .table s.ct, .bytes s.pk,
    .byte s.eff, .bytes s.name, .kind s.kind, .bytes s.pin, .bytes s.pout, .bytes s.pdst, .items s.pvw]

theorem hostRead_eq_reads (n : Nat) (s : State) : s.hostRead n = (s.reads[n]?).getD (.word 0) := by
  match n with
  | 0 | 1 | 2 | 3 | 4 | 5 | 6 | 7 | 8 | 9 | 10 | 11 | 12 | 13 | 14 | 15 | _ + 16 => rfl

theorem HostWritten.reads {n : Nat} {v : RegValue} {s t : State} (h : HostWritten s n v t) (hn : n ∈ writable) :
    t.reads = s.reads.set n v := by
  cases h with
  | ignored h =>
    simp only [writable, List.mem_cons, List.not_mem_nil, or_false] at hn h
    omega
  | _ => rfl

/-- The written register reads as the value written. -/
theorem HostWritten.read {n : Nat} {v : RegValue} {s t : State} (h : HostWritten s n v t) (hn : n ∈ writable) :
    t.hostRead n = v := by
  have hlt : n < s.reads.length := by
    simp only [writable, List.mem_cons, List.not_mem_nil, or_false] at hn
    show n < 16
    omega
  rw [hostRead_eq_reads, h.reads hn, List.getElem?_set_self hlt]
  rfl

/-- No other register changes. -/
theorem HostWritten.sameBut {n : Nat} {v : RegValue} {s t : State} (h : HostWritten s n v t) : sameBut n s t := by
  intro m hm
  by_cases hn : n ∈ writable
  · rw [hostRead_eq_reads, hostRead_eq_reads, h.reads hn, List.getElem?_set_ne hm.symm]
  · cases h with
    | ignored => rfl
    | _ => exact absurd (by decide) hn

/-- What the host cannot write is as it was. -/
theorem HostWritten.frame {n : Nat} {v : RegValue} {s t : State} (h : HostWritten s n v t) :
    t.tree = s.tree ∧ t.host = s.host ∧ t.params = s.params ∧ t.tx = s.tx ∧ t.readout = s.readout := by
  cases h <;> exact ⟨rfl, rfl, rfl, rfl, rfl⟩

/-! ### The host's next transaction (R22, R23) -/

theorem pending_access {s : State} {t : HostTx} {rest : List HostTx} (h : s.tx = t :: rest)
    (ht : ∀ w, t ≠ .write 0 (.word w)) : s.pending = .access t := by
  unfold State.pending
  rw [h]
  split
  · next h' => cases h'
  · next w _ h' => cases h'; exact absurd rfl (ht w)
  · next h' => cases h'; rfl

/-- A transaction that issues no command is performed on the state with the transaction taken off the queue. -/
theorem step_access {s : State} {t : HostTx} {rest : List HostTx} (h : s.tx = t :: rest)
    (ht : ∀ w, t ≠ .write 0 (.word w)) : step s = State.access t { s with tx := rest } := by
  have htaken : s.taken = { s with tx := rest } := by rw [State.taken, h]; rfl
  unfold step
  rw [pending_access h ht, ← htaken]

/-! ### The invariant under each update -/

namespace State.Inv

variable {s : State}

theorem setStatus (h : s.Inv) (op : Byte) {c : BitVec 4} (hc : c.toNat ≤ 8) : (s.setStatus op c).Inv := by
  obtain ⟨-, -, hkind⟩ := h.status
  exact { h with status := ⟨statusWord_reserved op c, by rwa [State.err_setStatus], hkind⟩ }

theorem setDout (h : s.Inv) {v : Bytes} (hv : v.length ≤ s.cap) : (s.setDout v).Inv := by
  obtain ⟨hdin, -, hpk, hname⟩ := h.buffers
  exact { h with buffers := ⟨hdin, hv, hpk, hname⟩ }

theorem setPk (h : s.Inv) {v : Bytes} (hv : v.length ≤ s.cap) : (s.setPk v).Inv := by
  obtain ⟨hdin, hdout, -, hname⟩ := h.buffers
  exact { h with buffers := ⟨hdin, hdout, hv, hname⟩ }

theorem setName (h : s.Inv) {v : Bytes} (hv : v.length ≤ Config.maxStr) : (s.setName v).Inv := by
  obtain ⟨hdin, hdout, hpk, -⟩ := h.buffers
  exact { h with buffers := ⟨hdin, hdout, hpk, hv⟩ }

theorem setPos (h : s.Inv) {v : Nat} (hv : v < 2 ^ 64) : (s.setPos v).Inv := { h with pos := hv }

theorem setFt (h : s.Inv) {v : FreqTable} (hv : FtWf v) : (s.setFt v).Inv := { h with ft := hv }

theorem setTree (h : s.Inv) {v : Tree} (hv : TreeWf v) : (s.setTree v).Inv := { h with tree := hv }

theorem setCt (h : s.Inv) {v : CodeTable} (hv : CtWf v) : (s.setCt v).Inv := { h with ct := hv }

theorem setEff (h : s.Inv) (v : Byte) : (s.setEff v).Inv := { h with }

theorem setKind (h : s.Inv) {v : BitVec 2} (hv : v ≠ 3) : (s.setKind v).Inv := by
  obtain ⟨hreserved, herr, -⟩ := h.status
  exact { h with status := ⟨hreserved, herr, hv⟩ }

theorem setPvw (h : s.Inv) (v : List PreviewItem) : (s.setPvw v).Inv := { h with }

theorem setHost (h : s.Inv) {v : HostSide} (hf : FsWf v.files) (ha : v.archive = none) : (s.setHost v).Inv :=
  { h with files := hf, archive := ha }

theorem withTx (h : s.Inv) (tx : List HostTx) : ({ s with tx := tx } : State).Inv := { h with }

theorem withReadout (h : s.Inv) (r : Option RegValue) : ({ s with readout := r } : State).Inv := { h with }

theorem din_le (h : s.Inv) : s.din.length ≤ s.cap := h.buffers.1

/-- A buffer within BUF_CAP is shorter than 2^64 bytes (R29). -/
theorem din_lt (h : s.Inv) : s.din.length < 2 ^ 64 := h.din_le.trans_lt s.params.bufCap.isLt

/-- A cursor inside DIN is a value of POS (R27). -/
theorem pos_of_le (h : s.Inv) {p : Nat} (hp : p ≤ s.din.length) : p < 2 ^ 64 := hp.trans_lt h.din_lt

theorem appendDout (h : s.Inv) {o : Bytes} (ho : s.dout.length + o.length ≤ s.cap) : (s.setDout (s.dout ++ o)).Inv :=
  h.setDout (by rwa [List.length_append])

/-- RESET's registers meet the invariant (R39). -/
theorem resetWith (p : Params) {v : HostSide} (tx : List HostTx) (r : Option RegValue) (hf : FsWf v.files)
    (ha : v.archive = none) : (State.resetWith p v tx r).Inv where
  buffers := ⟨Nat.zero_le _, Nat.zero_le _, Nat.zero_le _, Nat.zero_le _⟩
  pos := Nat.two_pow_pos 64
  ft := ⟨.nil, fun _ he => by cases he⟩
  tree := ⟨rfl, rfl, Nat.zero_le _⟩
  ct := ⟨.nil, fun _ he => by cases he⟩
  status := ⟨statusWord_reserved 0 0, Nat.zero_le 8, (by decide : (0 : BitVec 2) ≠ 3)⟩
  paths := ⟨rfl, rfl, rfl⟩
  files := hf
  archive := ha

/-- An accepted HOST_WRITE keeps the invariant (D39). -/
theorem hostWritten (h : s.Inv) {n : Nat} {v : RegValue} {t : State} (hw : HostWritten s n v t) : t.Inv := by
  obtain ⟨hdin, hdout, hpk, hname⟩ := h.buffers
  obtain ⟨hpin, hpout, hpdst⟩ := h.paths
  cases hw with
  | din hb => exact { h with buffers := ⟨hb, hdout, hpk, hname⟩ }
  | dout hb => exact h.setDout hb
  | pos hp => exact h.setPos hp
  | ft hf => exact h.setFt hf
  | ct hc => exact h.setCt hc
  | pk hb => exact h.setPk hb
  | eff => exact h.setEff _
  | name hb => exact h.setName hb
  | pin hb => exact { h with paths := ⟨hb, hpout, hpdst⟩ }
  | pout hb => exact { h with paths := ⟨hpin, hb, hpdst⟩ }
  | pdst hb => exact { h with paths := ⟨hpin, hpout, hb⟩ }
  | ignored => exact h

end State.Inv

/-- The registers of an entry read from DIN meet the invariant (R28, R33; 44_container.md R129). -/
theorem State.Inv.withEntry {s : State} (h : s.Inv) {p : Nat} {e : Entry Frame} (he : EntryBounded s.din p e) :
    (s.withEntry p e).Inv := by
  cases e with
  | stop => exact h.setKind (by decide)
  | dir path =>
    obtain ⟨hpath, hp⟩ := he
    exact ((h.setKind (by decide)).setName hpath).setPos (h.pos_of_le hp)
  | file path f =>
    obtain ⟨hpath, hp, hc, -, hpk⟩ := he
    exact (((((h.setKind (by decide)).setName hpath).setPos (h.pos_of_le hp)).setCt hc).setEff _).setPk
      (hpk.trans h.din_le)

/-- A primitive command computes registers that meet the invariant (R26 to R33). -/
theorem State.Inv.regsOf {i : Instr} {s t : State} (h : s.Inv) (hr : regsOf i s = .ok t) : t.Inv := by
  cases i with
  | freq => cases hr; exact h.setFt (freqOf_wf h.din_lt)
  | build => cases hr; exact h.setTree (buildTree_wf h.ft)
  | codes =>
    obtain ⟨c, hc, rfl⟩ := codesRegs_ok hr
    exact h.setCt (codesOf_wf h.tree hc).1
  | trie =>
    obtain ⟨r, ht, rfl⟩ := trieRegs_ok hr
    exact h.setTree (toTrie_wf h.ct ht)
  | tser | unpack | pwr | ewrDir | ewrFile | hwrFile | hwrFold =>
    obtain ⟨o, -, ho, rfl⟩ := bind_appendDout_ok hr
    exact h.appendDout ho
  | tdes =>
    obtain ⟨c, p, hc, rfl⟩ := tdesRegs_ok hr
    obtain ⟨hwf, hp⟩ := tdes_wf hc
    exact (h.setCt hwf).setPos (h.pos_of_le hp)
  | pack =>
    obtain ⟨o, e, -, ho, rfl⟩ := packRegs_ok hr
    exact (h.setPk ho).setEff e
  | fenc =>
    obtain ⟨c, o, e, hc, -, ho, rfl⟩ := fencRegs_ok hr
    have hf := freqOf_wf h.din_lt
    have ht := buildTree_wf hf
    exact ((((h.setFt hf).setTree ht).setCt (codesOf_wf ht hc).1).setPk ho).setEff e
  | fdec =>
    obtain ⟨r, o, ht, -, ho, rfl⟩ := fdecRegs_ok hr
    exact (h.appendDout ho).setTree (toTrie_wf h.ct ht)
  | prd =>
    obtain ⟨f, p, hf, rfl⟩ := prdRegs_ok hr
    obtain ⟨hc, -, hpk, hp⟩ := frameRead_wf hf
    exact (((h.setCt hc).setEff _).setPk (hpk.trans h.din_le)).setPos (h.pos_of_le hp)
  | pskip =>
    obtain ⟨p, hp, rfl⟩ := pskipRegs_ok hr
    exact h.setPos (h.pos_of_le (frameSkip_advances hp).2)
  | erd =>
    obtain ⟨e, p, he, rfl⟩ := erdRegs_ok hr
    exact h.withEntry (entryRead_bounded he)
  | hrdFile | hrdFold =>
    obtain ⟨n, p, hn, rfl⟩ := hrdRegs_ok hr
    obtain ⟨hle, hp⟩ := headerRead_le hn
    exact (h.setName hle).setPos (h.pos_of_le hp)
  | cfile | dfile | cdir | ddir | prev => cases hr; exact h

/-- The root name PREV reads is within MAX_STR (R33). -/
theorem preview_root_le {cap : Nat} {pin n : Bytes} {h : HostSide} (hn : (preview cap pin h).1.root = some n) :
    n.length ≤ Config.maxStr := by
  unfold preview at hn
  split at hn
  · simp only [previewArchive] at hn
    split at hn
    · cases hn
    · next hr => cases hn; exact (headerRead_le hr).1
  · cases hn

theorem endCode_le (e : Option Err) : (endCode e).toNat ≤ 8 := by
  cases e with
  | none => decide
  | some e => exact (errCode_range e).2

/-- Every command keeps the invariant. -/
theorem State.Inv.exec {i : Instr} {s t : State} (h : s.Inv) (he : exec i s = .next t) : t.Inv := by
  cases hi : primitive i with
  | true =>
    obtain ⟨u, hu, hr⟩ := exec_primitive_ends hi s
    rw [hu] at he
    cases he
    have hinv : u.Inv := hr.elim h.regsOf fun hus => hus ▸ h
    exact hinv.setStatus _ (endCode_le _)
  | false =>
    obtain ⟨es, e, hs, hf, -⟩ := operation_finished hi he
    have hfiles : FsWf t.host.files := hs.files_wf h.files
    have harch : t.host.archive = none := by rw [hs.archive, h.archive, hf.archive]
    by_cases hp : i = .prev
    · subst hp
      rw [exec_prev] at he
      cases he
      refine State.Inv.setStatus (State.Inv.setName (State.Inv.setPvw (h.setHost hfiles harch) _) ?_) _ (endCode_le _)
      cases hroot : (preview s.cap s.pin s.host).1.root with
      | none =>
        obtain ⟨-, -, -, hname⟩ := h.buffers
        exact hname
      | some n => exact preview_root_le hroot
    · rw [exec_operation hi hp, State.operate_eq] at he
      cases he
      exact (h.setHost hfiles harch).setStatus _ (endCode_le _)

/-! ### The code in STATUS at a command's end (R24, R166) -/

theorem endCode_le_seven {e : Option Err} (h : ∀ x, e = some x → x ∈ commandErrs) : (endCode e).toNat ≤ 7 := by
  cases e with
  | none => decide
  | some x => exact errCode_commandErrs (h x rfl)

theorem Raises.endCode_le {α : Type} {r : Except Err α} (h : Raises commandErrs r) :
    (endCode (resultError r)).toNat ≤ 7 := by
  cases r with
  | ok a => exact Nat.zero_le 7
  | error e => exact errCode_commandErrs (h e rfl)

theorem actOf_raises (i : Instr) (s : State) : Act.Raises commandErrs (actOf i s) := by
  cases i with
  | cfile => exact (Act.Raises.compressFile _ _ _ _).mono (by decide)
  | dfile => exact (Act.Raises.decompressFile _ _ _).mono (by decide)
  | cdir => exact (Act.Raises.compressDirectory _ _ _ _ _).mono (by decide)
  | ddir => exact (Act.Raises.decompressDirectory _ _ _).mono (by decide)
  | _ => exact .pure _ _

/-- Every command writes STATUS last, with ERR a code of 0 to 7. -/
theorem exec_ends (i : Instr) (s : State) :
    ∃ (u : State) (c : BitVec 4), exec i s = .next (u.setStatus (opcode i) c) ∧ c.toNat ≤ 7 := by
  cases hi : primitive i with
  | true =>
    obtain ⟨u, hu, -⟩ := exec_primitive_ends hi s
    exact ⟨u, _, hu, (regsOf_raises i s).endCode_le⟩
  | false =>
    by_cases hp : i = .prev
    · subst hp
      exact ⟨_, _, exec_prev s, endCode_le_seven fun x hx =>
        (by decide : [Err.notFound, .unrecognizedFormat, .truncatedStream, .ioFailure, .malformed] ⊆ commandErrs)
          (preview_raises hx)⟩
    · exact ⟨_, _, (exec_operation hi hp s).trans (congrArg _ (State.operate_eq _ _ _)),
        (actOf_raises i s s.host).endCode_le⟩

/-- EFF is as before, or one of its four writers gave it a valid count (R26). -/
theorem regsOf_eff {i : Instr} {s t : State} (h : regsOf i s = .ok t) :
    t.eff = s.eff ∨ (i ∈ [.pack, .fenc, .prd, .erd] ∧ validEff t.eff = true) := by
  by_cases hi : i ∈ [.pack, .fenc, .prd, .erd]
  · simp only [List.mem_cons, List.not_mem_nil, or_false] at hi
    rcases hi with rfl | rfl | rfl | rfl
    · obtain ⟨o, e, he, -, rfl⟩ := packRegs_ok h
      exact .inr ⟨by decide, pack_eff he⟩
    · obtain ⟨c, o, e, -, he, -, rfl⟩ := fencRegs_ok h
      exact .inr ⟨by decide, pack_eff he⟩
    · obtain ⟨f, p, hf, rfl⟩ := prdRegs_ok h
      obtain ⟨-, he, -, -⟩ := frameRead_wf hf
      exact .inr ⟨by decide, he⟩
    · obtain ⟨e, p, he, rfl⟩ := erdRegs_ok h
      have hb := entryRead_bounded he
      cases e with
      | stop => exact .inl rfl
      | dir path => exact .inl rfl
      | file path f =>
        obtain ⟨-, -, -, he, -⟩ := hb
        exact .inr ⟨by decide, he⟩
  · obtain ⟨-, -, -, -, -, hpk, -, -⟩ := regsOf_keepsUnlisted h
    exact .inl (hpk hi).2

/-! ### No command reads STATUS (R25) -/

/-- The state with another STATUS. -/
def State.atStatus (w : Word) (s : State) : State := { s with status := w }

variable {w : Word} {s : State}

theorem bind_atStatus {α : Type} {x : Except Err α} {f g : α → Except Err State}
    (h : ∀ a, f a = (g a).map (State.atStatus w)) : x >>= f = (x >>= g).map (State.atStatus w) := by
  cases x with
  | ok a => exact h a
  | error e => rfl

theorem appendDout_atStatus (o : Bytes) :
    (s.atStatus w).appendDout o = (s.appendDout o).map (State.atStatus w) := by
  rw [State.appendDout_eq, State.appendDout_eq]
  show (if s.dout.length + o.length ≤ s.cap then _ else _) = _
  split <;> rfl

/-- The registers a primitive command computes do not depend on STATUS. -/
theorem regsOf_atStatus (i : Instr) : regsOf i (s.atStatus w) = (regsOf i s).map (State.atStatus w) := by
  cases i with
  | freq | build | cfile | dfile | cdir | ddir | prev => rfl
  | codes | trie | tdes | prd | pskip | hrdFile | hrdFold => exact bind_atStatus fun _ => rfl
  | tser | unpack | pwr | ewrDir | ewrFile | hwrFile | hwrFold => exact bind_atStatus fun _ => appendDout_atStatus _
  | pack => exact bind_atStatus fun _ => bind_atStatus fun _ => rfl
  | fenc => exact bind_atStatus fun _ => bind_atStatus fun _ => bind_atStatus fun _ => rfl
  | fdec =>
    refine bind_atStatus fun _ => bind_atStatus fun o => ?_
    rw [appendDout_atStatus]
    cases s.appendDout o <;> rfl
  | erd =>
    refine bind_atStatus fun a => ?_
    obtain ⟨e, p⟩ := a
    cases e <;> rfl

theorem finish_atStatus (op : Byte) (r : Except Err State) :
    (s.atStatus w).finish op (r.map (State.atStatus w)) = s.finish op r := by
  cases r <;> rfl

/-- A command's outcome does not depend on STATUS. -/
theorem exec_atStatus (i : Instr) : exec i (s.atStatus w) = exec i s := by
  cases hi : primitive i with
  | true => rw [exec_primitive hi, exec_primitive hi, regsOf_atStatus, finish_atStatus]
  | false =>
    by_cases hp : i = .prev
    · subst hp
      rw [exec_prev, exec_prev]
      rfl
    · rw [exec_operation hi hp, exec_operation hi hp, State.operate_eq, State.operate_eq]
      rcases operation_cases hi with rfl | rfl | rfl | rfl | rfl <;> rfl

end Sys2Proof.Machine
end

section
/-! PROOFS. The statements about the register file, STATUS, the host's transactions and the sessions with the host
(10_state.md; 46_operations.md R163). -/

namespace Sys2Proof.Proofs

open Sys2Proof Sys2Proof.Machine Sys2Proof.Certificates

/-! ### The invariant -/

/-- Settles O56: by the kind of the host's next transaction; a command keeps the invariant by `State.Inv.exec`, a
HOST_WRITE by `State.Inv.hostWritten`. -/
theorem stepKeepsInvariant : Obligations.StepKeepsInvariant := by
  intro s t h hstep
  unfold step at hstep
  split at hstep
  · cases hstep
    exact h
  · next tx _ =>
    have htaken : s.taken.Inv := h.withTx _
    cases tx with
    | write n v =>
      simp only [State.access] at hstep
      split at hstep
      · next hw =>
        cases hstep
        exact htaken.hostWritten (hostWrite_eq_some_iff.1 hw)
      · cases hstep
    | read n =>
      cases hstep
      exact htaken.withReadout _
    | reset =>
      cases hstep
      exact .resetWith _ _ _ h.files h.archive
  · have htaken : s.taken.Inv := h.withTx _
    split at hstep
    · exact htaken.exec hstep
    · cases hstep
      exact htaken.setStatus _ (errCode_range _).2

/-- Settles O55: the reset state is RESET's registers around a host with a canonical filesystem and no open archive. -/
theorem invariantAtReset : Obligations.InvariantAtReset := by
  refine ⟨.resetWith _ _ _ (fsCanon_wf _) rfl, ⟨_, _, rfl, rfl⟩, ?_⟩
  rintro p h tx o t rfl
  exact ⟨rfl, rfl, rfl, rfl, fun _ => rfl, rfl, fun _ => rfl, rfl, rfl, rfl, rfl, rfl, rfl, rfl, rfl, rfl, rfl, rfl, rfl⟩

/-! ### The host's transactions -/

/-- Settles O52: an accepted write is one of `HostWritten`. -/
theorem hostWriteTouchesOneRegister : Obligations.HostWriteTouchesOneRegister := by
  intro n v s
  refine ⟨fun hn => ?_, fun hn => hostWrite_ignored hn v s, fun t ht => ?_⟩
  · rw [← hostWritten_iff_fits hn, Option.isSome_iff_exists]
    exact exists_congr fun t => hostWrite_eq_some_iff
  · have hw := hostWrite_eq_some_iff.1 ht
    obtain ⟨htree, hhost, hparams, htx, hread⟩ := hw.frame
    exact ⟨hw.sameBut, htree, hhost, hparams, htx, hread, hw.read⟩

/-- Settles O5: the step decodes the issued word and runs its command. -/
theorem stepRunsIssuedCommand : Obligations.StepRunsIssuedCommand := by
  intro w i s hd hp
  unfold step
  rw [hp]
  simp only [hd]
  rfl

/-- Settles O53: each transaction at the head of the queue is performed by `State.access`. -/
theorem transactionsStep : Obligations.TransactionsStep := by
  intro s rest
  refine ⟨fun n h => ?_, ?_, fun n v hn h => ?_, fun n v hn h => ?_, fun v hv h => ?_, fun h => ?_, fun h => ?_⟩
  · rw [step_access h (by simp)]
    rfl
  · refine ⟨rfl, rfl, rfl, rfl, rfl, rfl, rfl, rfl, rfl, rfl, rfl, rfl, rfl, rfl, rfl, rfl, fun n hn => ?_⟩
    obtain ⟨k, rfl⟩ := Nat.exists_eq_add_of_le' hn
    rfl
  · have hn0 : n ≠ 0 := by
      rintro rfl
      simp at hn
    have hstep := step_access h (by simp [hn0])
    have hfits := hostWritten_iff_fits hn v { s with tx := rest }
    refine ⟨fun hf => ?_, fun hf => ?_⟩
    · obtain ⟨t, hw⟩ := hfits.2 hf
      obtain ⟨htree, hhost, hparams, htx, -⟩ := hw.frame
      refine ⟨t, ?_, htx, hw.read hn, hw.sameBut, htree, hhost, hparams⟩
      rw [hstep]
      simp only [State.access, hostWrite_eq_some_iff.2 hw]
    · have hnone : State.hostWrite n v { s with tx := rest } = none :=
        Option.eq_none_iff_forall_ne_some.2 fun t ht => hf (hfits.1 ⟨t, hostWrite_eq_some_iff.1 ht⟩)
      rw [hstep]
      simp only [State.access, hnone]
  · have hn0 : n ≠ 0 := by
      rintro rfl
      simp at hn
    rw [step_access h (by simp [hn0])]
    simp only [State.access, hostWrite_ignored hn]
  · rw [step_access h (by simpa using hv)]
    rfl
  · rw [step_access h (by simp)]
    rfl
  · unfold step State.pending
    rw [h]

theorem appendDout_resetWith {p : Params} {h : HostSide} {tx : List HostTx} {o : Option RegValue} {b : Bytes}
    (hb : b.length ≤ (State.resetWith p h tx o).cap) :
    (State.resetWith p h tx o).appendDout b = .ok ((State.resetWith p h tx o).setDout b) := by
  rw [State.appendDout_eq]
  exact if_pos (by simpa using hb)

/-- Settles O54: the empty table gives no tree, the empty payload no byte, and the empty frame has nine bytes. -/
theorem resetIsEmptyPayload : Obligations.ResetIsEmptyPayload := by
  intro s hs
  obtain ⟨p, h, tx, o, rfl⟩ : ∃ p h tx o, s = State.resetWith p h tx o := ⟨_, _, _, _, hs⟩
  have hunpack : unpack [] 8 .absent = .ok [] := rfl
  have hframe : frameWrite [] 8 [] = .ok [0x00#8, 0x00#8, 0x00#8, 0x00#8, 0x08#8, 0x00#8, 0x00#8, 0x00#8, 0x00#8] := rfl
  refine ⟨?_, ?_, fun hcap => ?_⟩
  · have hfdec : regsOf .fdec (State.resetWith p h tx o) = .ok (State.resetWith p h tx o) := by
      show (unpack [] 8 .absent >>= fun b => (State.resetWith p h tx o).appendDout b >>= fun t =>
        Except.ok (t.setTree .absent)) = _
      rw [hunpack]
      show ((State.resetWith p h tx o).appendDout [] >>= fun t => Except.ok (t.setTree .absent)) = _
      rw [appendDout_resetWith (b := []) (Nat.zero_le _)]
      rfl
    rw [exec_primitive rfl, hfdec]
    rfl
  · have hregs : regsOf .unpack (State.resetWith p h tx o) = .ok (State.resetWith p h tx o) := by
      show (unpack [] 8 .absent >>= fun b => (State.resetWith p h tx o).appendDout b) = _
      rw [hunpack]
      exact appendDout_resetWith (b := []) (Nat.zero_le _)
    rw [exec_primitive rfl, hregs]
    rfl
  · have hpwr : regsOf .pwr (State.resetWith p h tx o) = .ok ((State.resetWith p h tx o).setDout
        [0x00#8, 0x00#8, 0x00#8, 0x00#8, 0x08#8, 0x00#8, 0x00#8, 0x00#8, 0x00#8]) := by
      show (frameWrite [] 8 [] >>= fun b => (State.resetWith p h tx o).appendDout b) = _
      rw [hframe]
      exact appendDout_resetWith hcap
    rw [exec_primitive rfl, hpwr]
    rfl

/-! ### What commands change -/

/-- Settles O46: a primitive command by the form its registers take, an operation command by its end. -/
theorem commandsKeepOtherRegisters : Obligations.CommandsKeepOtherRegisters := by
  intro i s
  cases hi : primitive i with
  | true =>
    obtain ⟨t, ht, hr⟩ := exec_primitive_ends hi s
    have hne : i ≠ .prev := by rintro rfl; cases hi
    obtain ⟨hkeeps, hunlisted⟩ : KeepsInputs s t ∧ KeepsUnlisted i s t :=
      hr.elim (fun h => ⟨regsOf_keeps h, regsOf_keepsUnlisted h⟩) (fun h => h.symm ▸ ⟨.refl s, .refl i s⟩)
    obtain ⟨hdout, hpos, hft, htree, hct, hpk, hname, hkind⟩ := hunlisted
    exact ⟨_, ht, ⟨hkeeps.din, hkeeps.pin, hkeeps.pout, hkeeps.pdst, hkeeps.params, hkeeps.tx, hkeeps.readout⟩,
      hdout, hpos, hft, htree, hct, hpk, hname, hkind, fun _ => hkeeps.pvw, fun _ => hkeeps.host, nofun,
      fun h => absurd h hne⟩
  | false =>
    by_cases hp : i = .prev
    · subst hp
      refine ⟨_, exec_prev s, ?_⟩
      simp [State.afterPrev, State.setStatus, State.withPreview, State.setName, State.setPvw, State.setHost]
    · refine ⟨_, (exec_operation hi hp s).trans (congrArg _ (State.operate_eq _ _ _)), ?_⟩
      simp [State.setStatus, State.setHost, hp]

/-- Settles O47: only an append to DOUT writes it. -/
theorem doutOnlyGrows : Obligations.DoutOnlyGrows := by
  intro i s t h
  obtain ⟨u, c, rfl, hr | rfl | ⟨v, rfl⟩ | ⟨v, p, rfl⟩⟩ := exec_registers h
  · exact (regsOf_keeps hr).dout
  · exact List.prefix_rfl
  · exact List.prefix_rfl
  · exact List.prefix_rfl

/-- Settles O49: STATUS is written last, with a code that no command's errors take past 7. -/
theorem statusAfterCommand : Obligations.StatusAfterCommand := by
  intro i s
  obtain ⟨u, e, hu, he⟩ := exec_ends i s
  exact ⟨_, hu, State.lastOp_setStatus _ _ _, statusWord_reserved _ _, by rwa [State.err_setStatus]⟩

/-- Settles O50: STATUS enters neither the registers computed, nor the requests, nor the new STATUS. -/
theorem noCommandReadsStatus : Obligations.NoCommandReadsStatus := fun i _ _ => exec_atStatus i

/-- Settles O51: EFF comes from a packing or from a frame read, both of which answer 1 to 8. -/
theorem effWrittenInRange : Obligations.EffWrittenInRange := by
  intro i s t h
  obtain ⟨u, c, rfl, hr | rfl | ⟨v, rfl⟩ | ⟨v, p, rfl⟩⟩ := exec_registers h
  · refine (regsOf_eff hr).imp id fun ⟨hm, he⟩ => ⟨?_, (validEff_iff _).1 he⟩
    simpa only [List.mem_cons, List.not_mem_nil, or_false] using hm
  · exact .inl rfl
  · exact .inl rfl
  · exact .inl rfl

/-! ### Sessions with the host -/

/-- The first part of O44: no archive stays open, and H_CLOSE is made where one was opened and only there (R163). -/
theorem archive_closed {i : Instr} {s t : State} (ha : s.host.archive = none) (h : exec i s = .next t) :
    t.host.archive = none ∧ ∀ new : List Event, t.host.trace = s.host.trace ++ new →
      (Opened new → (new.getLast?).map Prod.fst = some .close) ∧ (¬ Opened new → ∀ ev ∈ new, ev.1 ≠ .close) := by
  cases hi : primitive i with
  | true =>
    obtain ⟨u, hu, hr⟩ := exec_primitive_ends hi s
    rw [hu] at h
    cases h
    have hhost : u.host = s.host := hr.elim (fun h => (regsOf_keeps h).host) (fun h => h ▸ rfl)
    refine ⟨(congrArg HostSide.archive hhost).trans ha, fun new hnew => ?_⟩
    obtain rfl : new = [] := List.self_eq_append_right.1 ((congrArg HostSide.trace hhost).symm.trans hnew)
    simp [Opened]
  | false =>
    obtain ⟨es, e, hs, hf, -⟩ := operation_finished hi h
    refine ⟨by rw [hs.archive, ha, hf.archive], fun new hnew => ?_⟩
    rw [hs.trace, List.append_cancel_left_eq] at hnew
    exact hnew ▸ hf.closes

/-- The second part of O44: what a bad reply, or a byte that a second read brings, makes of the end of a session whose
error is `e` (R57, R63, R143, R163). -/
theorem trouble_ends {i : Instr} {es a b : List Event} {q : HostReq} {r : HostReply} {e : Option Err}
    (hf : Finished (EarlyErr i) (LateErr i) es e) (hes : es = a ++ (q, r) :: b) :
    (r = .missing ∨ r = .ioFail →
      (Opened a → q ≠ .close → ∃ r', b = [(.close, r')]) ∧ (¬ Opened a ∨ q = .close → b = [])) ∧
    (r = .missing → e = some .notFound) ∧
    (r = .ioFail → ∃ x, e = some x ∧ (q ≠ .close ∨ i = .cfile → x = .ioFailure)) ∧
    (Stale a (q, r) → e = some .unknownSymbol ∧ (i = .cfile → b = []) ∧ (i = .cdir → ∃ r', b = [(.close, r')])) := by
  refine ⟨fun hr => ?_, fun hr => ?_, fun hr => ?_, fun hst => ?_⟩
  · rcases hf.locate hes (fun h => h.good hr) with ⟨x, -, ht, ⟨hb, hno, -⟩ | ⟨hb, ho, -⟩⟩ | ⟨hq, hb, -⟩
    · exact ⟨fun ho => absurd ho hno, fun _ => hb⟩
    · exact ⟨fun _ _ => hb, fun h => h.elim (absurd ho) fun hq => absurd hq ht.ne_close⟩
    · exact ⟨fun _ hne => absurd hq hne, fun _ => hb⟩
  · rcases hf.locate hes (fun h => h.good (.inl hr)) with ⟨x, rfl, ht, -⟩ | ⟨-, -, hm, -⟩
    · rw [ht.of_bad (.inl hr), hr]
      rfl
    · exact absurd hr hm
  · rcases hf.locate hes (fun h => h.good (.inr hr)) with ⟨x, rfl, ht, -⟩ | ⟨hq, -, -, hio⟩
    · refine ⟨x, rfl, fun _ => ?_⟩
      rw [ht.of_bad (.inr hr), hr]
      rfl
    · obtain ⟨x, rfl, hx⟩ := hio hr
      exact ⟨x, rfl, fun h => h.elim (absurd hq) fun hi => hx.elim id fun hl => hl hi⟩
  · rcases hf.locate hes (fun h => h.fresh hst) with ⟨x, rfl, ht, hb⟩ | ⟨hq, -⟩
    · obtain rfl := ht.of_stale hst
      refine ⟨rfl, fun hi => ?_, fun hi => ?_⟩
      · rcases hb with ⟨hb, -⟩ | ⟨-, -, hl⟩
        · exact hb
        · cases hl hi
      · rcases hb with ⟨-, -, he⟩ | ⟨hb, -⟩
        · exact absurd rfl (he hi)
        · exact hb
    · obtain ⟨p, d1, d2, x, -, hev, -, -⟩ := hst
      cases hev
      cases hq

/-- Settles O44: every operation command ends with a finished history (`operation_finished`), and `Finished.locate` says
where in it a bad reply or a changed file can stand. -/
theorem archiveClosedOnEveryPath : Obligations.ArchiveClosedOnEveryPath := by
  refine ⟨fun i s t ha h => ?_, fun i s t a b q r hi h htr => ?_⟩
  · obtain ⟨harch, hnew⟩ := archive_closed ha h
    exact ⟨harch, fun new h => ⟨(hnew new h).1, fun hno => (hnew new h).2 (not_exists.2 hno)⟩⟩
  · have hprim : primitive i = false := by
      simp only [List.mem_cons, List.not_mem_nil, or_false] at hi
      rcases hi with rfl | rfl | rfl | rfl | rfl <;> rfl
    obtain ⟨es, e, hs, hf, herr⟩ := operation_finished hprim h
    rw [hs.trace, List.append_cancel_left_eq] at htr
    obtain ⟨hbad, hmissing, hio, hstale⟩ := trouble_ends hf htr
    rw [herr]
    refine ⟨fun hr => ⟨(hbad hr).1, fun hno => (hbad hr).2 (hno.imp not_exists.2 id)⟩, fun hr => ?_, fun hr => ?_, ?_⟩
    · rw [hmissing hr]
      rfl
    · obtain ⟨x, rfl, hx⟩ := hio hr
      exact ⟨fun h0 => by have := (errCode_range x).1; rw [show errCode x = 0 from h0] at this; simp at this,
        fun h => by rw [hx h]; rfl⟩
    · rintro p d1 d2 x rfl hl rfl h2 h1
      obtain ⟨rfl, hb⟩ := hstale ⟨p, d1, d2, x, hl, rfl, h2, h1⟩
      exact ⟨rfl, hb⟩

end Sys2Proof.Proofs
end

section
/-! PROOFS. The host's listing of a directory (20_memory.md R59 duty 1) and the order CDIR sorts it into
(46_operations.md R147). -/

namespace Sys2Proof.Machine

/-! ### Paths and children (44_container.md R131 to R133) -/

theorem join_of_ne_nil {a : Bytes} (ha : a ≠ []) (b : Bytes) : join a b = a ++ [Config.sep] ++ b := if_neg ha

theorem validName_ne_nil {q : Bytes} (h : validName q = true) : q ≠ [] := by
  rintro rfl
  simp [validName, validPath] at h

/-- A descendant of `d` is `d`, a SEP and something after it (R133). -/
theorem descendant_iff {q d : Bytes} : descendant q d = true ↔ ∃ r : Bytes, r ≠ [] ∧ q = d ++ [Config.sep] ++ r := by
  simp only [descendant, Bool.and_eq_true, decide_eq_true_eq, beq_iff_eq]
  constructor
  · rintro ⟨⟨hlen, htake⟩, hsep⟩
    obtain ⟨hd, hq⟩ := List.getElem?_eq_some_iff.1 hsep
    refine ⟨q.drop (d.length + 1), List.ne_nil_of_length_pos (by simp; omega), ?_⟩
    calc q = q.take d.length ++ q.drop d.length := (List.take_append_drop _ _).symm
      _ = d ++ (q[d.length] :: q.drop (d.length + 1)) := by rw [htake, List.drop_eq_getElem_cons hd]
      _ = d ++ [Config.sep] ++ q.drop (d.length + 1) := by rw [hq]; simp
  · rintro ⟨r, hr, rfl⟩
    have := List.length_pos_of_ne_nil hr
    simp
    omega

theorem childName_eq_some_iff {d k nm : Bytes} : childName d k = some nm ↔ validName nm = true ∧ k = join d nm := by
  unfold childName
  simp only [Option.ite_none_right_eq_some, Bool.and_eq_true, beq_iff_eq, Option.some.injEq]
  by_cases hd : d = []
  · subst hd
    simp only [if_true, join]
    exact ⟨fun ⟨⟨hv, _⟩, he⟩ => ⟨he ▸ hv, he⟩, fun ⟨hv, he⟩ => ⟨⟨he ▸ hv, trivial⟩, he⟩⟩
  · simp only [if_neg hd]
    constructor
    · rintro ⟨h, rfl⟩
      exact h
    · rintro ⟨hv, rfl⟩
      have hdrop : (join d nm).drop (d.length + 1) = nm := by rw [join_of_ne_nil hd]; simp
      rw [hdrop]
      exact ⟨⟨hv, rfl⟩, rfl⟩

theorem fsLookup_isSome_iff {fs : FileSystem} {p : Bytes} : (fsLookup fs p).isSome = true ↔ ∃ e ∈ fs, e.1 = p := by
  induction fs with
  | nil => simp [fsLookup]
  | cons e fs ih =>
    obtain ⟨q, n⟩ := e
    by_cases hq : q = p <;> simp [fsLookup, hq, ih]

theorem fsLookup_fsInsert_self (p : Bytes) (n : FsNode) (fs : FileSystem) : fsLookup (fsInsert p n fs) p = some n := by
  rw [fsLookup_fsInsert, if_pos rfl]

theorem fsLookup_fsInsert_of_ne {p q : Bytes} (n : FsNode) (fs : FileSystem) (h : q ≠ p) :
    fsLookup (fsInsert p n fs) q = fsLookup fs q := by
  rw [fsLookup_fsInsert, if_neg (Ne.symm h)]

/-- A directory's children are the names under which the filesystem has an entry below it (R59 duty 1). -/
theorem mem_children {fs : FileSystem} {d nm : Bytes} :
    nm ∈ children fs d ↔ validName nm = true ∧ (fsLookup fs (join d nm)).isSome = true := by
  simp only [children, List.mem_dedup, List.mem_filterMap, childName_eq_some_iff, fsLookup_isSome_iff]
  exact ⟨fun ⟨e, he, hv, hk⟩ => ⟨hv, e, he, hk⟩, fun ⟨hv, e, he, hk⟩ => ⟨e, he, hv, hk⟩⟩

theorem children_nodup (fs : FileSystem) (d : Bytes) : (children fs d).Nodup := List.nodup_dedup _

/-- Writing a path that is no child of `d` leaves its children. -/
theorem children_fsInsert {fs : FileSystem} {d p : Bytes} (n : FsNode) (hp : childName d p = none) :
    children (fsInsert p n fs) d = children fs d := by
  suffices h : (fsInsert p n fs).filterMap (fun e => childName d e.1) = fs.filterMap (fun e => childName d e.1) by
    simp only [children, h]
  induction fs with
  | nil => simp [fsInsert, hp]
  | cons e fs ih =>
    obtain ⟨q, m⟩ := e
    unfold fsInsert
    split
    · next hq => simp [← hq, hp]
    · split
      · simp only [List.filterMap_cons, hp]
      · simp only [List.filterMap_cons, ih]

/-- Of two writes of one path the second counts. -/
theorem fsInsert_fsInsert (p : Bytes) (n m : FsNode) (fs : FileSystem) :
    fsInsert p n (fsInsert p m fs) = fsInsert p n fs := by
  induction fs with
  | nil => simp [fsInsert]
  | cons e fs ih =>
    obtain ⟨q, k⟩ := e
    by_cases hq : p = q
    · simp [fsInsert, hq]
    · by_cases hlt : bytesLt p q = true
      · simp [fsInsert, hq, hlt]
      · simp [fsInsert, hq, hlt, ih]

/-! ### The listing's order (U11) -/

theorem arrange_perm {names : List Bytes} (first : List Bytes) (h : names.Nodup) : (arrange first names).Perm names := by
  have hdis : (first.dedup.filter (fun n => names.contains n)).Disjoint (names.filter (fun n => !first.contains n)) := by
    intro n h1 h2
    simp_all
  have hnodup : (arrange first names).Nodup :=
    ((List.nodup_dedup first).filter _).append (h.filter _) hdis
  refine (List.perm_ext_iff_of_nodup hnodup h).2 fun n => ?_
  simp only [arrange, List.mem_append, List.mem_filter, List.mem_dedup, Bool.not_eq_eq_eq_not,
    Bool.not_true, decide_eq_false_iff_not, List.contains_eq_mem, decide_eq_true_eq]
  tauto

theorem HostSide.reply_list (h : HostSide) (p : Bytes) :
    h.reply (.list p) = if h.draw.fail then .ioFail else .names (arrange h.draw.listing (children h.found p)) := rfl

/-! ### Sorting (R11, R147) -/

/-- `a` does not come after `b` in the order of byte strings. -/
abbrev BytesLe (a b : Bytes) : Prop := bytesLt b a = false

theorem BytesLe.total (a b : Bytes) : BytesLe a b ∨ BytesLe b a := by
  by_cases h : bytesLt b a = true
  · refine .inr (Bool.eq_false_iff.2 fun h' => ?_)
    have := bytesLt_trans h h'
    rw [bytesLt_irrefl] at this
    cases this
  · exact .inl (by simpa using h)

theorem BytesLe.antisymm {a b : Bytes} (h1 : BytesLe a b) (h2 : BytesLe b a) : a = b := by
  by_contra hne
  have := bytesLt_total hne h2
  rw [h1] at this
  cases this

theorem BytesLe.trans {a b c : Bytes} (h1 : BytesLe a b) (h2 : BytesLe b c) : BytesLe a c := by
  by_cases hab : a = b
  · exact hab ▸ h2
  · refine Bool.eq_false_iff.2 fun hca => ?_
    have hcb : bytesLt c b = true := bytesLt_trans hca (bytesLt_total (Ne.symm hab) h1)
    rw [h2] at hcb
    cases hcb

theorem sortBytes_eq_insertionSort (l : List Bytes) : sortBytes l = l.insertionSort BytesLe := by
  have hinsert : ∀ (x : Bytes) (l : List Bytes), insertBytes x l = l.orderedInsert BytesLe x := by
    intro x l
    induction l with
    | nil => rfl
    | cons y l ih => by_cases h : bytesLt y x = true <;> simp [insertBytes, h, ih]
  induction l with
  | nil => rfl
  | cons x l ih => rw [List.insertionSort_cons, ← ih, ← hinsert]; rfl

theorem sortBytes_perm (l : List Bytes) : (sortBytes l).Perm l := by
  rw [sortBytes_eq_insertionSort]
  exact List.perm_insertionSort _ l

theorem sortBytes_pairwise (l : List Bytes) : (sortBytes l).Pairwise BytesLe := by
  have : Std.Total BytesLe := ⟨BytesLe.total⟩
  have : IsTrans Bytes BytesLe := ⟨fun _ _ _ => BytesLe.trans⟩
  rw [sortBytes_eq_insertionSort]
  exact List.pairwise_insertionSort _ l

/-- Sorting forgets the order it was given (R147). -/
theorem sortBytes_eq_of_perm {l l' : List Bytes} (h : l.Perm l') : sortBytes l = sortBytes l' :=
  List.Perm.eq_of_pairwise (fun _ _ _ _ => BytesLe.antisymm) (sortBytes_pairwise l) (sortBytes_pairwise l')
    ((sortBytes_perm l).trans (h.trans (sortBytes_perm l').symm))

end Sys2Proof.Machine
end

section
/-! PROOFS. What a failed write request leaves on a host that keeps duty 4 (20_memory.md R61). -/

namespace Sys2Proof.Machine

/-! ### The directories along a path (R57) -/

theorem mem_pathChainFrom {pre cs a : Bytes} :
    a ∈ pathChainFrom pre cs ↔
      a = pre ++ cs ∨ ∃ r1 r2 : Bytes, cs = r1 ++ Config.sep :: r2 ∧ a = pre ++ r1 ∧ a ≠ [] := by
  induction cs generalizing pre with
  | nil => simp [pathChainFrom]
  | cons c cs ih =>
    have hsplit : (∃ r1 r2 : Bytes, c :: cs = r1 ++ Config.sep :: r2 ∧ a = pre ++ r1 ∧ a ≠ []) ↔
        (c = Config.sep ∧ a = pre ∧ a ≠ []) ∨
          ∃ r1 r2 : Bytes, cs = r1 ++ Config.sep :: r2 ∧ a = pre ++ [c] ++ r1 ∧ a ≠ [] := by
      constructor
      · rintro ⟨_ | ⟨x, r1⟩, r2, hcs, rfl, hne⟩
        · exact .inl ⟨(List.cons.inj hcs).1, by simp, hne⟩
        · obtain ⟨rfl, rfl⟩ := List.cons.inj hcs
          exact .inr ⟨r1, r2, rfl, by simp, hne⟩
      · rintro (⟨rfl, rfl, hne⟩ | ⟨r1, r2, rfl, rfl, hne⟩)
        · exact ⟨[], cs, rfl, by simp, hne⟩
        · exact ⟨c :: r1, r2, rfl, by simp, hne⟩
    have hfrom : a ∈ pathChainFrom pre (c :: cs) ↔
        (c = Config.sep ∧ a = pre ∧ a ≠ []) ∨ a ∈ pathChainFrom (pre ++ [c]) cs := by
      rw [pathChainFrom]
      split
      · next h =>
        simp only [Bool.and_eq_true, decide_eq_true_eq, bne_iff_ne] at h
        rw [List.mem_cons]
        exact or_congr_left ⟨fun ha => ⟨h.1, ha, ha ▸ h.2⟩, fun ha => ha.2.1⟩
      · next h =>
        simp only [Bool.and_eq_true, decide_eq_true_eq, bne_iff_ne, not_and, not_not] at h
        exact (or_iff_right fun ⟨hc, ha, hne⟩ => hne (ha.trans (h hc))).symm
    rw [hfrom, ih, hsplit, List.append_assoc, List.singleton_append]
    exact or_left_comm

/-- The path itself and every ancestor of it that is not the empty path. -/
theorem mem_pathChain {p a : Bytes} :
    a ∈ pathChain p ↔ a = p ∨ a ≠ [] ∧ ∃ r : Bytes, p = a ++ [Config.sep] ++ r := by
  unfold pathChain
  rw [mem_pathChainFrom]
  constructor
  · rintro (h | ⟨r1, r2, rfl, rfl, hne⟩)
    · exact .inl h
    · exact .inr ⟨hne, r2, by simp⟩
  · rintro (h | ⟨hne, r, rfl⟩)
    · exact .inl h
    · exact .inr ⟨a, r, by simp, rfl, hne⟩

/-- Ancestors stand before descendants. -/
theorem pathChainFrom_lengths (pre cs : Bytes) :
    (pathChainFrom pre cs).Pairwise (fun a b => a.length < b.length) := by
  induction cs generalizing pre with
  | nil => exact List.pairwise_singleton _ _
  | cons c cs ih =>
    unfold pathChainFrom
    dsimp only
    split
    · refine List.pairwise_cons.2 ⟨fun a ha => ?_, ih _⟩
      rcases mem_pathChainFrom.1 ha with rfl | ⟨r1, r2, -, rfl, -⟩ <;> simp
    · exact ih _

theorem mem_missingDirs {fs : FileSystem} {p a : Bytes} :
    a ∈ missingDirs fs p ↔ a ∈ pathChain p ∧ fsLookup fs a = none := by
  simp [missingDirs]

/-- Of the first missing directories along a path, every missing ancestor comes with its descendants. -/
theorem take_missingDirs_closed {fs : FileSystem} {p d q : Bytes} {k : Nat} (hq : q ∈ (missingDirs fs p).take k)
    (hd : d ∈ missingDirs fs p) (hlt : d.length < q.length) : d ∈ (missingDirs fs p).take k := by
  have hsorted : ((missingDirs fs p).take k ++ (missingDirs fs p).drop k).Pairwise
      (fun a b => a.length < b.length) := by
    rw [List.take_append_drop]
    exact (pathChainFrom_lengths [] p).filter _
  rw [← List.take_append_drop k (missingDirs fs p)] at hd
  refine (List.mem_append.1 hd).resolve_right fun hdrop => ?_
  have := (List.pairwise_append.1 hsorted).2.2 q hq d hdrop
  omega

theorem fsLookup_makeDirs (ds : List Bytes) (fs : FileSystem) (q : Bytes) :
    fsLookup (makeDirs ds fs) q = if q ∈ ds then some .dir else fsLookup fs q := by
  unfold makeDirs
  induction ds generalizing fs with
  | nil => simp
  | cons d ds ih =>
    rw [List.foldl_cons, ih, fsLookup_fsInsert]
    by_cases h : q ∈ ds
    · simp [h]
    · simp [h, @eq_comm _ q d]

theorem fsLookup_appendTo {fs : FileSystem} {p c : Bytes} (h : fsLookup fs p = some (.file c)) (b q : Bytes) :
    fsLookup (appendTo p b fs) q = if p = q then some (.file (c ++ b)) else fsLookup fs q := by
  simp only [appendTo, h, fsLookup_fsInsert]

/-! ### Failed requests -/

/-- Under duty 4 a failed request leaves what the host drew of its effect (R61). -/
theorem HostSide.after_files_of_ioFail {h : HostSide} {q : HostReq} (hm : h.mayChange = false)
    (hr : h.reply q = .ioFail) : (h.after q).files = filesOnFail h.draw.landed h.archive q h.files := by
  show (if h.reply q = .ioFail then _ else _) = _
  rw [if_pos hr, HostSide.found_of_stable hm]

/-- A failed H_MKDIRS leaves the first missing directories along the path, perhaps none (R61; log 8). -/
theorem filesOnFail_mkdirs (l : Option Nat) (a : Option Bytes) (p : Bytes) (fs : FileSystem) :
    ∃ k, filesOnFail l a (.mkdirs p) fs = makeDirs ((missingDirs fs p).take k) fs := by
  cases l with
  | none => exact ⟨0, rfl⟩
  | some k => exact ⟨k, rfl⟩

theorem failed_append {h : HostSide} (hm : h.mayChange = false) {p c b : Bytes} (ha : h.archive = some p)
    (hc : fsLookup h.files p = some (.file c)) (hr : h.reply (.append b) = .ioFail) :
    (∃ k, fsLookup (h.after (.append b)).files p = some (.file (c ++ b.take k))) ∧
      ∀ q, q ≠ p → fsLookup (h.after (.append b)).files q = fsLookup h.files q := by
  rw [HostSide.after_files_of_ioFail hm hr, ha]
  cases h.draw.landed with
  | none => exact ⟨⟨0, by simpa [filesOnFail] using hc⟩, fun _ _ => rfl⟩
  | some k =>
    simp only [filesOnFail, fsLookup_appendTo hc, if_true]
    exact ⟨⟨k, rfl⟩, fun q hq => if_neg (Ne.symm hq)⟩

theorem failed_create {h : HostSide} (hm : h.mayChange = false) {p : Bytes} (hr : h.reply (.create p) = .ioFail) :
    (h.after (.create p)).archive = none ∧
      (fsLookup (h.after (.create p)).files p = fsLookup h.files p ∨
        fsLookup (h.after (.create p)).files p = some (.file [])) ∧
      ∀ q, q ≠ p → fsLookup (h.after (.create p)).files q = fsLookup h.files q := by
  rw [HostSide.after_files_of_ioFail hm hr, HostSide.after_archive, hr]
  refine ⟨rfl, ?_⟩
  cases h.draw.landed with
  | none => exact ⟨.inl rfl, fun _ _ => rfl⟩
  | some k =>
    exact ⟨.inr (fsLookup_fsInsert_self ..), fun q hq => fsLookup_fsInsert_of_ne _ _ hq⟩

theorem failed_writeFile {h : HostSide} (hm : h.mayChange = false) {p b : Bytes}
    (hr : h.reply (.writeFile p b) = .ioFail) :
    (fsLookup (h.after (.writeFile p b)).files p = fsLookup h.files p ∨
        ∃ k, fsLookup (h.after (.writeFile p b)).files p = some (.file (b.take k))) ∧
      ∀ q, q ≠ p → fsLookup (h.after (.writeFile p b)).files q = fsLookup h.files q := by
  rw [HostSide.after_files_of_ioFail hm hr]
  cases h.draw.landed with
  | none => exact ⟨.inl rfl, fun _ _ => rfl⟩
  | some k =>
    exact ⟨.inr ⟨k, fsLookup_fsInsert_self ..⟩, fun q hq => fsLookup_fsInsert_of_ne _ _ hq⟩

theorem failed_mkdirs {h : HostSide} (hm : h.mayChange = false) {p : Bytes} (hr : h.reply (.mkdirs p) = .ioFail) :
    (∀ q, fsLookup (h.after (.mkdirs p)).files q = fsLookup h.files q ∨
      (fsLookup h.files q = none ∧ fsLookup (h.after (.mkdirs p)).files q = some .dir ∧
        (q = p ∨ ∃ r, p = q ++ [Config.sep] ++ r))) ∧
    ∀ q d r : Bytes, q = d ++ [Config.sep] ++ r → d ≠ [] → fsLookup h.files q = none →
      fsLookup (h.after (.mkdirs p)).files q = some .dir → (fsLookup (h.after (.mkdirs p)).files d).isSome = true := by
  obtain ⟨k, hk⟩ := filesOnFail_mkdirs h.draw.landed h.archive p h.files
  rw [HostSide.after_files_of_ioFail hm hr, hk]
  simp only [fsLookup_makeDirs]
  constructor
  · intro q
    by_cases hq : q ∈ (missingDirs h.files p).take k
    · obtain ⟨hchain, hnone⟩ := mem_missingDirs.1 (List.mem_of_mem_take hq)
      exact .inr ⟨hnone, if_pos hq, (mem_pathChain.1 hchain).imp id And.right⟩
    · exact .inl (if_neg hq)
  · rintro q d r rfl hd hnone hdir
    have hq : d ++ [Config.sep] ++ r ∈ (missingDirs h.files p).take k := by
      by_contra hq
      rw [if_neg hq, hnone] at hdir
      cases hdir
    cases hex : fsLookup h.files d with
    | some n => split <;> rfl
    | none =>
      have hchain : d ∈ pathChain p := by
        refine mem_pathChain.2 (.inr ⟨hd, ?_⟩)
        rcases mem_pathChain.1 (mem_missingDirs.1 (List.mem_of_mem_take hq)).1 with h | ⟨-, r', hr'⟩
        · exact ⟨r, h.symm⟩
        · exact ⟨r ++ [Config.sep] ++ r', by rw [hr']; simp⟩
      have hmem := take_missingDirs_closed hq (mem_missingDirs.2 ⟨hchain, hex⟩) (by simp)
      rw [if_pos hmem]
      rfl

end Sys2Proof.Machine
end

section
/-! PROOFS. The statements about the host's listing and its failed writes (20_memory.md R59, R61). -/

namespace Sys2Proof.Proofs

open Sys2Proof Sys2Proof.Machine

/-- Settles O57: the reply is the children in a drawn order (`arrange_perm`), and `mem_children` says what they are. -/
theorem hostListsEachChildOnce : Obligations.HostListsEachChildOnce := by
  intro h p ns hr
  rw [HostSide.reply_list] at hr
  split at hr
  · cases hr
  · cases hr
    have hperm := arrange_perm h.draw.listing (children_nodup h.found p)
    exact ⟨hperm.nodup_iff.2 (children_nodup _ _), fun n => hperm.mem_iff.trans mem_children⟩

/-- Settles O58, request by request. -/
theorem failedAppendLeavesPrefix : Obligations.FailedAppendLeavesPrefix := by
  intro h hm
  refine ⟨fun p c b => failed_append hm, fun p => failed_create hm, fun p => failed_mkdirs hm,
    fun p b => failed_writeFile hm, fun hr => ?_⟩
  rw [HostSide.after_files_of_ioFail hm hr]
  cases h.draw.landed <;> rfl

end Sys2Proof.Proofs
end

section
/-! PROOFS. The model's writers give the byte layouts of 30_encoding.md part B (R71 to R81), and packing a file's own bytes
gives the one frame that layout allows (42_bitpack.md R105; 46_operations.md R143). -/

namespace Sys2Proof.Machine

open Sys2Proof.Certificates

/-! ### Fields (20_memory.md R43, R47) -/

theorem beBytes_two (v : Nat) : beBytes 2 v = u16 v := rfl

theorem beBytes_four (v : Nat) : beBytes 4 v = u32 v := by
  simp [beBytes, u32, Nat.div_div_eq_div_mul]

theorem wrU32_of_le {v : Nat} (h : v ≤ Config.maxField) : wrU32 v = .ok (u32 v) := by
  rw [wrU32_eq, if_pos h, beBytes_four]

theorem wrStr_of_le {b : Bytes} (h : b.length ≤ Config.maxStr) : wrStr b = .ok (strBytes b) := by
  rw [wrStr_eq, if_pos h, beBytes_two]
  rfl

theorem strBytes_length (b : Bytes) : (strBytes b).length = 2 + b.length := by
  simp [strBytes, u16]
  omega

theorem dirBytes_length (q : Bytes) : (dirBytes q).length = 5 + q.length := by
  simp [dirBytes, strBytes_length]
  omega

theorem fileBytes_length (q : Bytes) (f : Frame) : (fileBytes q f).length = 6 + q.length + (frameBytes f).length := by
  simp [fileBytes, strBytes_length]
  omega

/-! ### Tables, frames, entries and headers (R71 to R81) -/

theorem flatMap_bitUnit (c : Bits) : c.flatMap bitUnit = unitBytes c := by
  refine List.flatMap_congr fun x _ => ?_
  cases x <;> rfl

theorem tserEntry_of_le {e : Byte × Bits} (h : e.2.length ≤ Config.maxField) : tserEntry e = .ok (codeEntryBytes e) := by
  unfold tserEntry
  rw [wrU32_of_le h, flatMap_bitUnit]
  rfl

theorem tserEntries_of_le {c : CodeTable} (h : ∀ e ∈ c, e.2.length ≤ Config.maxField) :
    tserEntries c = .ok (c.flatMap codeEntryBytes) := by
  induction c with
  | nil => rfl
  | cons e c ih =>
    unfold tserEntries
    rw [tserEntry_of_le (h e List.mem_cons_self), ih fun x hx => h x (List.mem_cons_of_mem _ hx)]
    rfl

theorem tser_of_wf {c : CodeTable} (h : CtWf c) : tser c = .ok (tableBytes c) := by
  have hlen : c.length ≤ Config.maxField := h.1.length_le.trans (by decide)
  have hcodes : ∀ e ∈ c, e.2.length ≤ Config.maxField := fun e he => (h.2 e he).2.trans (by decide)
  unfold tser
  rw [wrU32_of_le hlen, tserEntries_of_le hcodes]
  rfl

theorem frameWrite_of_wf {f : Frame} (h : FrameWf f) : frameWrite f.packed f.eff f.table = .ok (frameBytes f) := by
  obtain ⟨hct, heff, hlen⟩ := h
  unfold frameWrite
  rw [heff, wrU32_of_le hlen, tser_of_wf hct]
  rfl

theorem dirEntry_of_le {q : Bytes} (h : q.length ≤ Config.maxStr) : dirEntry q = .ok (dirBytes q) := by
  unfold dirEntry
  rw [wrStr_of_le h]
  rfl

theorem fileEntry_of_wf {q : Bytes} {f : Frame} (hq : q.length ≤ Config.maxStr) (hf : FrameWf f) :
    fileEntry q f = .ok (fileBytes q f) := by
  unfold fileEntry
  rw [wrStr_of_le hq, frameWrite_of_wf hf]
  rfl

theorem headerWrite_of_le {fold : Bool} {name : Bytes} (h : name.length ≤ Config.maxStr) :
    headerWrite fold name = .ok (headerBytes fold name) := by
  unfold headerWrite
  rw [wrStr_of_le h]
  cases fold <;> rfl

/-! ### Packing (42_bitpack.md R105) -/

/-- The value the accumulating byte has after taking the bits in order (R105). -/
def accumulate (acc : Nat) (x : Bits) : Nat := x.foldl (fun a b => 2 * a + b.toNat) acc

theorem accumulate_replicate_false (acc n : Nat) : accumulate acc (List.replicate n false) = acc * 2 ^ n := by
  induction n generalizing acc with
  | zero => simp [accumulate]
  | succ n ih =>
    rw [List.replicate_succ]
    show accumulate (2 * acc + 0) _ = _
    rw [ih, pow_succ]
    ring

theorem accumulate_append (acc : Nat) (x y : Bits) : accumulate acc (x ++ y) = accumulate (accumulate acc x) y :=
  List.foldl_append

/-- A byte is what its bits accumulate to. -/
theorem accumulate_byteBits (b : Byte) : BitVec.ofNat 8 (accumulate 0 (byteBits b)) = b := by
  revert b
  decide

@[simp] theorem byteBits_length (b : Byte) : (byteBits b).length = 8 := rfl

@[simp] theorem flatMap_byteBits_length (pk : Bytes) : (pk.flatMap byteBits).length = 8 * pk.length := by
  induction pk with
  | nil => rfl
  | cons b pk ih => simp [ih]; ring

/-- Bits that fill the accumulating byte are emitted as one byte. -/
theorem packBits_full {acc k : Nat} {x : Bits} (y : Bits) (hx : x ≠ []) (hk : k + x.length = 8) :
    packBits acc k (x ++ y) = (BitVec.ofNat 8 (accumulate acc x) :: (packBits 0 0 y).1, (packBits 0 0 y).2) := by
  induction x generalizing acc k with
  | nil => exact absurd rfl hx
  | cons b x ih =>
    simp only [List.cons_append, packBits]
    by_cases hx' : x = []
    · subst hx'
      exact if_pos hk
    · have := List.length_pos_of_ne_nil hx'
      rw [List.length_cons] at hk
      rw [if_neg (by omega), ih hx' (by omega)]
      rfl

/-- Bits that do not fill the accumulating byte are emitted in its high bits, with their number. -/
theorem packBits_partial {acc k : Nat} {x : Bits} (h0 : 0 < k + x.length) (h8 : k + x.length < 8) :
    packBits acc k x =
      ([BitVec.ofNat 8 (accumulate acc x * 2 ^ (8 - (k + x.length)))], BitVec.ofNat 8 (k + x.length)) := by
  induction x generalizing acc k with
  | nil => exact if_pos h0
  | cons b x ih =>
    rw [List.length_cons] at h8 ⊢
    simp only [packBits]
    rw [if_neg (by omega), ih (by omega) (by omega), show k + 1 + x.length = k + (x.length + 1) by omega]
    rfl

theorem packBits_byteBits (b : Byte) (y : Bits) :
    packBits 0 0 (byteBits b ++ y) = (b :: (packBits 0 0 y).1, (packBits 0 0 y).2) := by
  rw [packBits_full (x := byteBits b) y (List.cons_ne_nil _ _) rfl, accumulate_byteBits]

/-- The first bits of a byte whose other bits are 0 are packed as that byte. -/
theorem packBits_take_byteBits {b : Byte} {n : Nat} (h0 : 0 < n) (h8 : n < 8)
    (hz : ∀ x ∈ (byteBits b).drop n, x = false) : packBits 0 0 ((byteBits b).take n) = ([b], BitVec.ofNat 8 n) := by
  have hlen : ((byteBits b).take n).length = n := by simp; omega
  have hdrop : (byteBits b).drop n = List.replicate (8 - n) false := List.eq_replicate_iff.2 ⟨by simp, hz⟩
  have hacc : accumulate 0 ((byteBits b).take n) * 2 ^ (8 - n) = accumulate 0 (byteBits b) := by
    rw [← accumulate_replicate_false, ← hdrop, ← accumulate_append, List.take_append_drop]
  rw [packBits_partial (by omega) (by omega), Nat.zero_add, hlen, hacc, accumulate_byteBits]

/-- The packed form of a bit string is unique: bytes whose meaningful bits are the string and whose other bits are 0 are
the bytes PACK makes of it, with its effective-bit count (R105, R109). -/
theorem packBits_of_packedAs {pk : Bytes} {e : Byte} {bits : Bits} (hp : PackedAs pk e bits)
    (hz : ZeroAfter pk bits.length) (he : bits = [] → e = 8) : packBits 0 0 bits = (pk, e) := by
  induction pk generalizing bits with
  | nil =>
    obtain rfl : bits = [] := List.length_eq_zero_iff.1 hp.2.1.symm
    rw [he rfl]
    rfl
  | cons b pk ih =>
    obtain ⟨hv, hn, htake⟩ := hp
    obtain ⟨h1, h8⟩ := (validEff_iff e).1 hv
    have hn : 8 * pk.length + e.toNat = bits.length := by simpa [nbits] using hn
    rw [List.flatMap_cons] at htake
    by_cases hlt : bits.length < 8
    · obtain rfl : pk = [] := List.length_eq_zero_iff.1 (by omega)
      simp only [ZeroAfter, List.flatMap_cons, List.flatMap_nil, List.append_nil] at htake hz
      rw [← htake, packBits_take_byteBits (by omega) hlt hz, ← hn]
      simp
    · have hsplit : bits = byteBits b ++ (pk.flatMap byteBits).take (bits.length - 8) :=
        calc bits = (byteBits b ++ pk.flatMap byteBits).take bits.length := htake.symm
          _ = _ := by rw [List.take_append, List.take_of_length_le (by simp; omega), byteBits_length]
      have hlen : ((pk.flatMap byteBits).take (bits.length - 8)).length = bits.length - 8 := by simp; omega
      have hrest : packBits 0 0 ((pk.flatMap byteBits).take (bits.length - 8)) = (pk, e) := by
        refine ih ⟨hv, ?_, by rw [hlen]⟩ ?_ fun hnil => BitVec.eq_of_toNat_eq ?_
        · rw [hlen, nbits]
          split <;> omega
        · rw [hlen]
          intro x hx
          refine hz x ?_
          rwa [List.flatMap_cons, List.drop_append, List.drop_of_length_le (by simp; omega), byteBits_length]
        · rw [hnil, List.length_nil] at hlen
          show e.toNat = 8
          omega
      rw [hsplit, packBits_byteBits, hrest]

theorem codeBits_of_covers {c : CodeTable} {d : Bytes} (h : Covers c d) : codeBits c d = .ok (bitsOf c d) := by
  induction d with
  | nil => rfl
  | cons b d ih =>
    obtain ⟨code, hcode⟩ := Option.isSome_iff_exists.1 (h b List.mem_cons_self)
    unfold codeBits
    simp only [hcode, ih fun x hx => h x (List.mem_cons_of_mem _ hx), bitsOf, List.flatMap_cons, Option.getD_some]
    rfl

/-- Bytes whose codes are of a well-formed table have no code bits only where there are no bytes. -/
theorem bitsOf_eq_nil {c : CodeTable} {d : Bytes} (hc : CtWf c) (hd : Covers c d) (h : bitsOf c d = []) : d = [] := by
  cases d with
  | nil => rfl
  | cons b d =>
    obtain ⟨code, hcode⟩ := Option.isSome_iff_exists.1 (hd b List.mem_cons_self)
    have hlen := (hc.2 _ (mem_of_mapGet hcode)).1
    rw [bitsOf, List.flatMap_cons, hcode] at h
    obtain rfl : code = [] := (List.append_eq_nil_iff.1 h).1
    cases hlen

theorem frameOf_wf {cap : Nat} {frame : Bytes → Frame} {d : Bytes} (h : FrameOf cap frame d) : FrameWf (frame d) := by
  obtain ⟨-, ⟨hwf, -⟩, -⟩ := h
  exact hwf

/-- Two passes over the same contents give their frame (R143). -/
theorem encodePasses_frameOf {cap : Nat} {frame : Bytes → Frame} {d : Bytes} (h : FrameOf cap frame d) :
    encodePasses cap d d = .ok (frame d) := by
  obtain ⟨hcodes, ⟨⟨hct, -, hmax⟩, -, hcov, hpacked⟩, hzero, hcap, heff⟩ := h
  have hpack : pack d (frame d).table = .ok ((frame d).packed, (frame d).eff) := by
    unfold pack
    rw [codeBits_of_covers hcov]
    show (do require (decide ((packBits 0 0 (bitsOf (frame d).table d)).1.length ≤ _)) _; _ : Except Err _) = _
    rw [packBits_of_packedAs hpacked hzero fun hnil => heff (bitsOf_eq_nil hct hcov hnil), decide_eq_true hmax]
    rfl
  unfold encodePasses
  rw [hcodes]
  show (pack d (frame d).table >>= _) = _
  rw [hpack]
  show (do require (decide ((frame d).packed.length ≤ cap)) _; _ : Except Err Frame) = _
  rw [decide_eq_true hcap]
  rfl

end Sys2Proof.Machine
end

section
/-! PROOFS. Programs of requests on a host that keeps duty 4 and serves its next requests (`Quiet`): the requests made, the
value or error at the end, and the filesystem and the open archive after (20_memory.md R57, R59). -/

namespace Sys2Proof.Machine

open Sys2Proof.Certificates

/-! ### A quiet host -/

theorem Served.draws {h h' : HostSide} {es : List Event} (hs : Served h es h') : h'.draws = h.draws.drop es.length := by
  induction hs with
  | done => rfl
  | ask q _ ih => rw [HostSide.after_draws, ih, List.tail_drop, List.length_append, List.length_singleton]

theorem Served.mayChange {h h' : HostSide} {es : List Event} (hs : Served h es h') : h'.mayChange = h.mayChange := by
  induction hs with
  | done => rfl
  | ask q _ ih => exact ih

theorem quiet_mono {n m : Nat} {h : HostSide} (hq : Quiet m h) (hnm : n ≤ m) : Quiet n h :=
  ⟨hq.1, hnm.trans hq.2.1, fun d hd => hq.2.2 d (List.take_subset_take_left _ hnm hd)⟩

/-- After some requests the host is quiet for the rest. -/
theorem quiet_served {n : Nat} {h h' : HostSide} {es : List Event} (hs : Served h es h')
    (hq : Quiet (es.length + n) h) : Quiet n h' := by
  obtain ⟨hm, hlen, hd⟩ := hq
  refine ⟨hs.mayChange.trans hm, ?_, fun d hmem => hd d ?_⟩
  · rw [hs.draws, List.length_drop]
    omega
  · rw [hs.draws, List.take_drop] at hmem
    exact List.mem_of_mem_drop hmem

theorem HostSide.draw_of_getElem? {h : HostSide} {d : Draw} (hd : h.draws[0]? = some d) : h.draw = d := by
  unfold HostSide.draw
  rw [List.headD_eq_head?_getD, List.head?_eq_getElem?, hd]
  rfl

theorem quiet_draw {n : Nat} {h : HostSide} (hq : Quiet (n + 1) h) : h.draw.fail = false ∧ h.draw.view ≠ .missing := by
  obtain ⟨-, hlen, hd⟩ := hq
  have hpos : 0 < h.draws.length := by omega
  rw [HostSide.draw_of_getElem? (List.getElem?_eq_getElem hpos)]
  exact hd _ (List.mem_take_iff_getElem.2 ⟨0, by omega, rfl⟩)

/-! ### What a program does -/

/-- What the requests of HCT read and change on a host under duty 4: the filesystem and the open archive. -/
structure Disk where
  files : FileSystem
  archive : Option Bytes

/-- The part of the host's side that requests read and change. -/
def HostSide.disk (h : HostSide) : Disk := ⟨h.files, h.archive⟩

/-- On a host with disk `d` that serves them, the program makes exactly the requests `qs` and ends with `r` and the disk
`d'`. -/
def Performs {α : Type} (d : Disk) (x : Act α) (qs : List HostReq) (r : Except Err α) (d' : Disk) : Prop :=
  ∀ h : HostSide, h.disk = d → Quiet qs.length h →
    ∃ es, Served h es (x h).2 ∧ es.map Prod.fst = qs ∧ (x h).1 = r ∧ (x h).2.disk = d'

namespace Performs

variable {α β : Type} {d d' d'' : Disk} {qs qs' : List HostReq}

theorem lift (r : Except Err α) : Performs d (Act.lift r) [] r d := fun h hd _ => ⟨[], .done h, rfl, rfl, hd⟩

theorem pure (a : α) : Performs d (Act.pure a) [] (.ok a) d := lift (.ok a)

theorem raise (e : Err) : Performs d (Act.raise e : Act α) [] (.error e) d := lift (.error e)

/-- A program that succeeds leaves the host as its requests do, and what follows it goes on from there. -/
theorem peel {x : Act α} {a : α} {n : Nat} {h : HostSide} (hx : Performs d x qs (.ok a) d') (hd : h.disk = d)
    (hq : Quiet (qs.length + n) h) :
    ∃ es h', Served h es h' ∧ es.map Prod.fst = qs ∧ h'.disk = d' ∧ Quiet n h' ∧
      ∀ (β : Type) (f : α → Act β), x.bind f h = f a h' := by
  obtain ⟨es, hs, hes, hr, hd'⟩ := hx h hd (quiet_mono hq (Nat.le_add_right _ _))
  refine ⟨es, _, hs, hes, hd', quiet_served hs (by rwa [← List.length_map (f := Prod.fst), hes]), fun β f => ?_⟩
  unfold Act.bind
  rw [show x h = (.ok a, (x h).2) from Prod.ext hr rfl]

theorem bind {x : Act α} {f : α → Act β} {a : α} {r : Except Err β} (hx : Performs d x qs (.ok a) d')
    (hf : Performs d' (f a) qs' r d'') : Performs d (x.bind f) (qs ++ qs') r d'' := by
  intro h hd hq
  rw [List.length_append] at hq
  obtain ⟨es, h', hs, rfl, hd', hq', hb⟩ := hx.peel hd hq
  obtain ⟨es', hs', rfl, hr, hd''⟩ := hf h' hd' hq'
  rw [hb]
  exact ⟨es ++ es', hs.trans hs', List.map_append, hr, hd''⟩

theorem bind_error {x : Act α} {f : α → Act β} {e : Err} (hx : Performs d x qs (.error e) d') :
    Performs d (x.bind f) qs (.error e) d' := by
  intro h hd hq
  obtain ⟨es, hs, hes, hr, hd'⟩ := hx h hd hq
  have hb : x.bind f h = (.error e, (x h).2) := by
    unfold Act.bind
    rw [show x h = (.error e, (x h).2) from Prod.ext hr rfl]
  rw [hb]
  exact ⟨es, hs, hes, rfl, hd'⟩

theorem closingOnError {x : Act α} {a : α} (hx : Performs d x qs (.ok a) d') :
    Performs d (Machine.closingOnError x) qs (.ok a) d' := by
  intro h hd hq
  obtain ⟨es, hs, hes, hr, hd'⟩ := hx h hd hq
  rw [closingOnError_apply, show x h = (.ok a, (x h).2) from Prod.ext hr rfl]
  exact ⟨es, hs, hes, rfl, hd'⟩

/-- An error with the archive open ends the command after one H_CLOSE, however that is answered (R163). -/
theorem closingOnError_error {x : Act α} {f : α → Act β} {e : Err} {h : HostSide}
    (hx : Performs d x qs (.error e) d') (hd : h.disk = d) (hq : Quiet qs.length h) :
    ∃ es h', Served h es h' ∧ es.map Prod.fst = qs ∧
      (Machine.closingOnError x).bind f h = (.error e, h'.after .close) := by
  obtain ⟨es, hs, hes, hr, -⟩ := hx h hd hq
  refine ⟨es, _, hs, hes, ?_⟩
  unfold Act.bind
  rw [closingOnError_apply, show x h = (.error e, (x h).2) from Prod.ext hr rfl]

/-! ### Single requests -/

variable {fs : FileSystem} {a : Option Bytes}

/-- A request a quiet host answers with `r`. -/
theorem ask {q : HostReq} {r : HostReply}
    (hr : ∀ w : Draw, w.fail = false → w.view ≠ .missing → replyTo w fs q = r) (hne : r ≠ .ioFail) :
    Performs ⟨fs, a⟩ (Machine.ask q) [q] (.ok r) ⟨filesOnOk a q fs, archiveAfter a q r⟩ := by
  intro h hd hq
  obtain ⟨rfl, rfl⟩ := Disk.mk.inj hd
  have hfound := HostSide.found_of_stable hq.1
  obtain ⟨hfail, hview⟩ := quiet_draw hq
  have hreply : h.reply q = r := by
    unfold HostSide.reply
    rw [hfound]
    exact hr _ hfail hview
  refine ⟨_, Served.one h q, rfl, congrArg _ hreply, ?_⟩
  show Disk.mk (if h.reply q = .ioFail then _ else filesOnOk h.archive q h.found) (archiveAfter _ q (h.reply q)) = _
  rw [hreply, if_neg hne, hfound]

/-- A write request. -/
theorem demand {q : HostReq} (hq : (∃ p, q = .create p) ∨ (∃ b, q = .append b) ∨ q = .close ∨ (∃ p, q = .mkdirs p) ∨
    ∃ p b, q = .writeFile p b) :
    Performs ⟨fs, a⟩ (Machine.demand q) [q] (.ok ()) ⟨filesOnOk a q fs, archiveAfter a q .ok⟩ :=
  (ask (fun w hw _ => by rw [replyTo_write _ _ _ hq, hw]) (by simp)).bind (qs' := []) (pure ())

theorem stat_file {p c : Bytes} (h : fsLookup fs p = some (.file c)) :
    Performs ⟨fs, a⟩ (Machine.ask (.stat p)) [.stat p] (.ok .file) ⟨fs, a⟩ :=
  ask (fun w hw _ => by simp [replyTo, hw, h]) (by simp)

theorem stat_dir {p : Bytes} (h : fsLookup fs p = some .dir) :
    Performs ⟨fs, a⟩ (Machine.ask (.stat p)) [.stat p] (.ok .dir) ⟨fs, a⟩ :=
  ask (fun w hw _ => by simp [replyTo, hw, h]) (by simp)

theorem readFile {p c : Bytes} (h : fsLookup fs p = some (.file c)) :
    Performs ⟨fs, a⟩ (Machine.readFile p) [.read p] (.ok c) ⟨fs, a⟩ :=
  (ask (r := .data c) (fun w hw hv => by simp [replyTo, hw, h, readReply, hv]) (by simp)).bind (qs' := []) (pure c)

/-- A file read twice becomes its frame (46_operations.md R143). -/
theorem encodeHostFile {cap : Nat} {frame : Bytes → Frame} {p c : Bytes} (h : fsLookup fs p = some (.file c))
    (hf : FrameOf cap frame c) :
    Performs ⟨fs, a⟩ (Machine.encodeHostFile cap p) [.read p, .read p] (.ok (frame c)) ⟨fs, a⟩ :=
  (readFile h).bind ((readFile h).bind (qs' := []) (encodePasses_frameOf hf ▸ lift _))

/-- A directory is listed, its children sorted, whatever the order drawn (R147). -/
theorem listNames (dir : Bytes) :
    Performs ⟨fs, a⟩ (Machine.listNames dir) [.list dir] (.ok (sortBytes (children fs dir))) ⟨fs, a⟩ := by
  intro h hd hq
  obtain ⟨rfl, rfl⟩ := Disk.mk.inj hd
  have hfound := HostSide.found_of_stable hq.1
  have hreply : h.reply (.list dir) = .names (arrange h.draw.listing (children h.files dir)) := by
    rw [HostSide.reply_list, (quiet_draw hq).1, hfound]
    rfl
  have hrun : Machine.listNames dir h = (.ok (sortBytes (children h.files dir)), h.after (.list dir)) := by
    rw [← sortBytes_eq_of_perm (arrange_perm h.draw.listing (children_nodup _ _))]
    unfold Machine.listNames Act.bind
    simp only [ask_apply, hreply]
    rfl
  have hfiles : (h.after (.list dir)).files = h.files := by
    show (if h.reply (.list dir) = .ioFail then _ else h.found) = _
    rw [hreply, if_neg (by simp), hfound]
  rw [hrun]
  exact ⟨_, Served.one h _, rfl, rfl, by rw [HostSide.disk, hfiles]; rfl⟩

end Performs

end Sys2Proof.Machine
end

section
/-! PROOFS. CDIR's walk on a quiet host (46_operations.md R145 to R149): with the archive open at a path outside the tree, it
appends the tree's entries by the requests of the walk, or stops at the first directory that is too deep. -/

namespace Sys2Proof.Machine

open Sys2Proof.Certificates

/-! ### The open archive -/

/-- The filesystem `fs` with the archive open at `out` and `b` written to it so far. -/
def archiveDisk (fs : FileSystem) (out b : Bytes) : Disk := ⟨fsInsert out (.file b) fs, some out⟩

theorem performs_create (fs : FileSystem) (a : Option Bytes) (out : Bytes) :
    Performs ⟨fs, a⟩ (demand (.create out)) [.create out] (.ok ()) (archiveDisk fs out []) :=
  .demand (.inl ⟨out, rfl⟩)

/-- The archive grows by the stream built, where that is within BUF_CAP. -/
theorem performs_emitBuilt {cap : Nat} {fs : FileSystem} {out o : Bytes} {r : Except Err Bytes} (b : Bytes) (hr : r = .ok o)
    (ho : o.length ≤ cap) :
    Performs (archiveDisk fs out b) (emitBuilt cap r) [.append o] (.ok ()) (archiveDisk fs out (b ++ o)) := by
  have hgrow : archiveDisk fs out (b ++ o) =
      ⟨filesOnOk (some out) (.append o) (fsInsert out (.file b) fs), archiveAfter (some out) (.append o) .ok⟩ := by
    show _ = Disk.mk (appendTo out o _) _
    rw [appendTo, fsLookup_fsInsert_self]
    dsimp only
    rw [fsInsert_fsInsert]
    rfl
  have hbuilt : privateStream cap r = .ok o := (privateStream_ok_iff ..).2 ⟨hr, ho⟩
  unfold emitBuilt
  rw [hbuilt, hgrow]
  exact (Performs.lift (.ok o)).bind (.demand (.inr (.inl ⟨o, rfl⟩)))

/-- The directory `dir` has a path, and the archive's path `out` is not below it. -/
structure Outside (out dir : Bytes) : Prop where
  ne_nil : dir ≠ []
  not_below : descendant out dir = false

namespace Outside

variable {out dir nm : Bytes}

theorem join_ne (h : Outside out dir) (hn : nm ≠ []) : join dir nm ≠ out := fun he =>
  Bool.eq_false_iff.1 h.not_below (descendant_iff.2 ⟨nm, hn, by rw [← he, join_of_ne_nil h.ne_nil]⟩)

theorem join (h : Outside out dir) (nm : Bytes) : Outside out (join dir nm) := by
  rw [join_of_ne_nil h.ne_nil]
  refine ⟨by simp, Bool.eq_false_iff.2 fun hd => Bool.eq_false_iff.1 h.not_below ?_⟩
  obtain ⟨r, -, rfl⟩ := descendant_iff.1 hd
  exact descendant_iff.2 ⟨nm ++ [Config.sep] ++ r, by simp, by simp⟩

theorem children_archive (h : Outside out dir) (fs : FileSystem) (b : Bytes) :
    children (archiveDisk fs out b).files dir = children fs dir := by
  refine children_fsInsert _ (Option.eq_none_iff_forall_ne_some.2 fun nm hnm => ?_)
  obtain ⟨hv, he⟩ := childName_eq_some_iff.1 hnm
  exact h.join_ne (validName_ne_nil hv) he.symm

theorem lookup_archive (h : Outside out dir) (hn : nm ≠ []) (fs : FileSystem) (b : Bytes) :
    fsLookup (archiveDisk fs out b).files (Machine.join dir nm) = fsLookup fs (Machine.join dir nm) :=
  fsLookup_fsInsert_of_ne _ _ (h.join_ne hn)

end Outside

/-! ### One level of the walk -/

/-- What the walk does for one child, with `levels` levels left below (R146); `walk_succ` ties it to `walk`. -/
def walkChild (cap levels : Nat) (dir rel nm : Bytes) : Act Unit :=
  (ask (.stat (join dir nm))).bind fun k =>
    match k with
    | .ioFail => Act.raise .ioFailure
    | .dir => (emitBuilt cap (dirEntry (join rel nm))).bind fun _ => walk cap levels (join dir nm) (join rel nm)
    | .file => (encodeHostFile cap (join dir nm)).bind fun f => emitBuilt cap (fileEntry (join rel nm) f)
    | _ => Act.raise .notFound

theorem walk_succ (cap levels : Nat) (dir rel : Bytes) :
    walk cap (levels + 1) dir rel = (listNames dir).bind (forNames (walkChild cap levels dir rel)) := rfl

section

variable {cap levels : Nat} {frame : Bytes → Frame} {fs : FileSystem} {out dir rel nm : Bytes}

theorem performs_walk {b : Bytes} {qs : List HostReq} {r : Except Err Unit} {d' : Disk} (ho : Outside out dir)
    (h : Performs (archiveDisk fs out b) (forNames (walkChild cap levels dir rel) (sortBytes (children fs dir))) qs r d') :
    Performs (archiveDisk fs out b) (walk cap (levels + 1) dir rel) (.list dir :: qs) r d' := by
  rw [← ho.children_archive fs b] at h
  exact (Performs.listNames dir).bind h

theorem performs_walkChild_file {c : Bytes} (b : Bytes) (ho : Outside out dir) (hn : nm ≠ [])
    (hc : fsLookup fs (join dir nm) = some (.file c)) (hf : FrameOf cap frame c)
    (hlen : (join rel nm).length ≤ Config.maxStr) (hcap : (fileBytes (join rel nm) (frame c)).length ≤ cap) :
    Performs (archiveDisk fs out b) (walkChild cap levels dir rel nm)
      [.stat (join dir nm), .read (join dir nm), .read (join dir nm), .append (fileBytes (join rel nm) (frame c))] (.ok ())
      (archiveDisk fs out (b ++ fileBytes (join rel nm) (frame c))) := by
  have hlook := (ho.lookup_archive hn fs b).trans hc
  exact (Performs.stat_file hlook).bind
    ((Performs.encodeHostFile hlook hf).bind (performs_emitBuilt b (fileEntry_of_wf hlen (frameOf_wf hf)) hcap))

theorem performs_walkChild_dir {b : Bytes} {qs : List HostReq} {r : Except Err Unit} {d' : Disk} (ho : Outside out dir)
    (hn : nm ≠ []) (hc : fsLookup fs (join dir nm) = some .dir) (hlen : (join rel nm).length ≤ Config.maxStr)
    (hcap : (dirBytes (join rel nm)).length ≤ cap)
    (hsub : Performs (archiveDisk fs out (b ++ dirBytes (join rel nm))) (walk cap levels (join dir nm) (join rel nm)) qs r
      d') :
    Performs (archiveDisk fs out b) (walkChild cap levels dir rel nm)
      ([.stat (join dir nm), .append (dirBytes (join rel nm))] ++ qs) r d' :=
  (Performs.stat_dir ((ho.lookup_archive hn fs b).trans hc)).bind
    ((performs_emitBuilt b (dirEntry_of_le hlen) hcap).bind hsub)

theorem ne_nil_of_mem_sorted {nm : Bytes} (h : nm ∈ sortBytes (children fs dir)) : nm ≠ [] :=
  validName_ne_nil (mem_children.1 ((sortBytes_perm _).mem_iff.1 h)).1

/-! ### A tree within WALK_DEPTH_MAX -/

/-- The entries of one child, as `treeEntries` lists them. -/
def childEntries (n : Nat) (fs : FileSystem) (dir rel nm : Bytes) : Option (List (Bytes × Option Bytes)) :=
  match fsLookup fs (join dir nm) with
  | none => none
  | some (.special _) => none
  | some (.file d) => some [(join rel nm, some d)]
  | some .dir => (treeEntries n fs (join dir nm) (join rel nm)).map (fun es => (join rel nm, none) :: es)

theorem treeEntries_succ (n : Nat) (fs : FileSystem) (dir rel : Bytes) :
    treeEntries (n + 1) fs dir rel =
      (allSome ((sortBytes (children fs dir)).map (childEntries n fs dir rel))).map List.flatten := rfl

/-- The requests of one child, as `treeRequests` lists them. -/
def childRequests (frame : Bytes → Frame) (n : Nat) (fs : FileSystem) (dir rel nm : Bytes) : Option (List HostReq) :=
  match fsLookup fs (join dir nm) with
  | none => none
  | some (.special _) => none
  | some (.file d) =>
    some [.stat (join dir nm), .read (join dir nm), .read (join dir nm), .append (fileBytes (join rel nm) (frame d))]
  | some .dir =>
    (treeRequests frame n fs (join dir nm) (join rel nm)).map (fun qs =>
      [.stat (join dir nm), .append (dirBytes (join rel nm))] ++ qs)

theorem treeRequests_succ (frame : Bytes → Frame) (n : Nat) (fs : FileSystem) (dir rel : Bytes) :
    treeRequests frame (n + 1) fs dir rel =
      (allSome ((sortBytes (children fs dir)).map (childRequests frame n fs dir rel))).map
        (fun ls => .list dir :: ls.flatten) := rfl

theorem allSome_cons_eq_some {α : Type} {o : Option α} {os : List (Option α)} {l : List α} :
    allSome (o :: os) = some l ↔ ∃ x xs, o = some x ∧ allSome os = some xs ∧ l = x :: xs := by
  cases o <;> simp [allSome, eq_comm]

/-- An entry CDIR can write: its path is a string field, and its bytes are within BUF_CAP. -/
structure WalkFits (cap : Nat) (frame : Bytes → Frame) (e : Bytes × Option Bytes) : Prop where
  path : e.1.length ≤ Config.maxStr
  bytes : (walkEntryBytes frame e).length ≤ cap
  frames : ∀ d, e.2 = some d → FrameOf cap frame d

theorem performs_forNames {step : Bytes → Act Unit} {f : Bytes → Option (List (Bytes × Option Bytes))}
    {g : Bytes → Option (List HostReq)} {names : List Bytes} {ess : List (List (Bytes × Option Bytes))}
    {qss : List (List HostReq)}
    (hstep : ∀ nm ∈ names, ∀ es qs, f nm = some es → g nm = some qs → (∀ e ∈ es, WalkFits cap frame e) → ∀ b,
      Performs (archiveDisk fs out b) (step nm) qs (.ok ()) (archiveDisk fs out (b ++ entriesBytes frame es)))
    (hf : allSome (names.map f) = some ess) (hg : allSome (names.map g) = some qss)
    (hfit : ∀ e ∈ ess.flatten, WalkFits cap frame e) (b : Bytes) :
    Performs (archiveDisk fs out b) (forNames step names) qss.flatten (.ok ())
      (archiveDisk fs out (b ++ entriesBytes frame ess.flatten)) := by
  induction names generalizing ess qss b with
  | nil =>
    cases hf
    cases hg
    rw [show b ++ entriesBytes frame [].flatten = b from List.append_nil b]
    exact .pure ()
  | cons nm names ih =>
    obtain ⟨es, ess, hes, hess, rfl⟩ := allSome_cons_eq_some.1 hf
    obtain ⟨qs, qss, hqs, hqss, rfl⟩ := allSome_cons_eq_some.1 hg
    simp only [List.flatten_cons, List.mem_append] at hfit ⊢
    have hhead := hstep nm List.mem_cons_self es qs hes hqs (fun e he => hfit e (.inl he)) b
    have htail := ih (fun nm' hm => hstep nm' (List.mem_cons_of_mem _ hm)) hess hqss (fun e he => hfit e (.inr he))
      (b ++ entriesBytes frame es)
    rw [show entriesBytes frame (es ++ ess.flatten) = _ from List.flatMap_append, ← List.append_assoc]
    exact hhead.bind htail

/-- The walk of a tree whose entries all fit appends them, by the requests of the walk (R146, R147). -/
theorem performs_walk_tree {n : Nat} {es : List (Bytes × Option Bytes)} {qs : List HostReq} (ho : Outside out dir)
    (hes : treeEntries n fs dir rel = some es) (hqs : treeRequests frame n fs dir rel = some qs)
    (hfit : ∀ e ∈ es, WalkFits cap frame e) (b : Bytes) :
    Performs (archiveDisk fs out b) (walk cap n dir rel) qs (.ok ()) (archiveDisk fs out (b ++ entriesBytes frame es)) := by
  induction n generalizing dir rel es qs b with
  | zero => cases hes
  | succ n ih =>
    rw [treeEntries_succ] at hes
    rw [treeRequests_succ] at hqs
    obtain ⟨ess, hess, rfl⟩ := Option.map_eq_some_iff.1 hes
    obtain ⟨qss, hqss, rfl⟩ := Option.map_eq_some_iff.1 hqs
    refine performs_walk ho (performs_forNames (fun nm hnm es qs hes hqs hfit b => ?_) hess hqss hfit b)
    have hn := ne_nil_of_mem_sorted hnm
    unfold childEntries at hes
    unfold childRequests at hqs
    cases hc : fsLookup fs (join dir nm) with
    | none => simp [hc] at hes
    | some node =>
      cases node with
      | special c => simp [hc] at hes
      | file c =>
        simp only [hc, Option.some.injEq] at hes hqs
        subst hes hqs
        have hentry := hfit _ (List.mem_singleton_self _)
        have := performs_walkChild_file (levels := n) b ho hn hc (hentry.frames c rfl) hentry.path hentry.bytes
        simpa [entriesBytes, walkEntryBytes] using this
      | dir =>
        simp only [hc] at hes hqs
        obtain ⟨below, hbelow, rfl⟩ := Option.map_eq_some_iff.1 hes
        obtain ⟨asked, hasked, rfl⟩ := Option.map_eq_some_iff.1 hqs
        have hentry := hfit _ List.mem_cons_self
        have hsub := ih (ho.join nm) hbelow hasked (fun e he => hfit e (List.mem_cons_of_mem _ he)) (b ++ dirBytes (join rel nm))
        rw [List.append_assoc] at hsub
        exact performs_walkChild_dir ho hn hc hentry.path hentry.bytes hsub

/-! ### A tree that may be too deep -/

/-- How a walk ends: with success, or at a directory that is too deep (R149). -/
def walkEnd (whole : Bool) : Except Err Unit := if whole then .ok () else .error .capacityExceeded

/-- The requests of one child and whether all below it was walked, as `walkRequests` has them. -/
def childWalk (frame : Bytes → Frame) (n : Nat) (fs : FileSystem) (dir rel nm : Bytes) : List HostReq × Bool :=
  match fsLookup fs (join dir nm) with
  | some (.file d) =>
    ([.stat (join dir nm), .read (join dir nm), .read (join dir nm), .append (fileBytes (join rel nm) (frame d))], true)
  | some .dir =>
    ([.stat (join dir nm), .append (dirBytes (join rel nm))] ++ (walkRequests frame n fs (join dir nm) (join rel nm)).1,
      (walkRequests frame n fs (join dir nm) (join rel nm)).2)
  | _ => ([], true)

/-- The requests for each name in order, up to the first name that is not walked whole. -/
def walkNames (f : Bytes → List HostReq × Bool) : List Bytes → List HostReq × Bool
  | [] => ([], true)
  | nm :: rest => if (f nm).2 then ((f nm).1 ++ (walkNames f rest).1, (walkNames f rest).2) else f nm

theorem foldl_stopped {F : List HostReq × Bool → Bytes → List HostReq × Bool} (hF : ∀ l nm, F (l, false) nm = (l, false))
    (l : List HostReq) (names : List Bytes) : names.foldl F (l, false) = (l, false) := by
  induction names with
  | nil => rfl
  | cons nm names ih => rw [List.foldl_cons, hF, ih]

/-- A fold that adds each name's requests while every name before was walked whole. -/
theorem foldl_eq_walkNames {F : List HostReq × Bool → Bytes → List HostReq × Bool} {f : Bytes → List HostReq × Bool}
    (hfalse : ∀ l nm, F (l, false) nm = (l, false)) (htrue : ∀ l nm, F (l, true) nm = (l ++ (f nm).1, (f nm).2))
    (l : List HostReq) (names : List Bytes) :
    names.foldl F (l, true) = (l ++ (walkNames f names).1, (walkNames f names).2) := by
  induction names generalizing l with
  | nil => simp [walkNames]
  | cons nm names ih =>
    rw [List.foldl_cons, htrue, walkNames]
    cases hw : (f nm).2 with
    | true => simp [ih]
    | false => simp [foldl_stopped hfalse, hw]

theorem walkRequests_succ (frame : Bytes → Frame) (n : Nat) (fs : FileSystem) (dir rel : Bytes) :
    walkRequests frame (n + 1) fs dir rel =
      (.list dir :: (walkNames (childWalk frame n fs dir rel) (sortBytes (children fs dir))).1,
        (walkNames (childWalk frame n fs dir rel) (sortBytes (children fs dir))).2) := by
  rw [walkRequests, foldl_eq_walkNames (f := childWalk frame n fs dir rel) (fun _ _ => rfl) (fun l nm => ?_)]
  · rfl
  · unfold childWalk
    cases fsLookup fs (join dir nm) with
    | none => simp
    | some node => cases node <;> simp

/-- Every path of the filesystem can be walked: it is a file or a directory, and its entry fits under its whole path. -/
structure AllFits (cap : Nat) (frame : Bytes → Frame) (fs : FileSystem) : Prop where
  noSpecial : ∀ p c, fsLookup fs p ≠ some (.special c)
  paths : ∀ p, (fsLookup fs p).isSome = true → p.length ≤ Config.maxStr ∧ (dirBytes p).length ≤ cap
  files : ∀ p d, fsLookup fs p = some (.file d) → FrameOf cap frame d ∧ (fileBytes p (frame d)).length ≤ cap

theorem performs_forNames_upTo {step : Bytes → Act Unit} {f : Bytes → List HostReq × Bool} {names : List Bytes}
    (hstep : ∀ nm ∈ names, ∀ b, ∃ b',
      Performs (archiveDisk fs out b) (step nm) (f nm).1 (walkEnd (f nm).2) (archiveDisk fs out b')) (b : Bytes) :
    ∃ b', Performs (archiveDisk fs out b) (forNames step names) (walkNames f names).1 (walkEnd (walkNames f names).2)
      (archiveDisk fs out b') := by
  induction names generalizing b with
  | nil => exact ⟨b, .pure ()⟩
  | cons nm names ih =>
    obtain ⟨b1, hhead⟩ := hstep nm List.mem_cons_self b
    unfold walkNames
    cases hw : (f nm).2 with
    | true =>
      obtain ⟨b2, htail⟩ := ih (fun nm' hm => hstep nm' (List.mem_cons_of_mem _ hm)) b1
      rw [hw] at hhead
      exact ⟨b2, hhead.bind htail⟩
    | false =>
      simp only [Bool.false_eq_true, if_false]
      rw [hw] at hhead ⊢
      exact ⟨b1, hhead.bind_error⟩

theorem join_length_le {dir rel : Bytes} (hd : dir ≠ []) (hrel : rel.length ≤ dir.length) (nm : Bytes) :
    (join rel nm).length ≤ (join dir nm).length := by
  rw [join_of_ne_nil hd]
  unfold join
  split <;> simp <;> omega

/-- The walk of a filesystem whose paths all fit makes the requests up to the first directory that is too deep, and ends
there with CapacityExceeded (R149). -/
theorem performs_walk_upTo (hfs : AllFits cap frame fs) {n : Nat} (ho : Outside out dir) (hrel : rel.length ≤ dir.length)
    (b : Bytes) :
    ∃ b', Performs (archiveDisk fs out b) (walk cap n dir rel) (walkRequests frame n fs dir rel).1
      (walkEnd (walkRequests frame n fs dir rel).2) (archiveDisk fs out b') := by
  induction n generalizing dir rel b with
  | zero => exact ⟨b, .raise _⟩
  | succ n ih =>
    rw [walkRequests_succ]
    have hnames := performs_forNames_upTo (step := walkChild cap n dir rel) (f := childWalk frame n fs dir rel)
      (names := sortBytes (children fs dir)) (fs := fs) (out := out) (fun nm hnm b => ?_) b
    · obtain ⟨b', hb'⟩ := hnames
      exact ⟨b', performs_walk ho hb'⟩
    have hn := ne_nil_of_mem_sorted hnm
    have hex := (mem_children.1 ((sortBytes_perm _).mem_iff.1 hnm)).2
    have hle := join_length_le ho.ne_nil hrel nm
    obtain ⟨hpath, hdir⟩ := hfs.paths _ hex
    unfold childWalk
    cases hc : fsLookup fs (join dir nm) with
    | none => simp [hc] at hex
    | some node =>
      cases node with
      | special c => exact absurd hc (hfs.noSpecial _ c)
      | file c =>
        obtain ⟨hframe, hcap⟩ := hfs.files _ _ hc
        rw [fileBytes_length] at hcap
        exact ⟨_, performs_walkChild_file b ho hn hc hframe (hle.trans hpath) (by rw [fileBytes_length]; omega)⟩
      | dir =>
        rw [dirBytes_length] at hdir
        obtain ⟨b', hsub⟩ := ih (ho.join nm) hle (b ++ dirBytes (join rel nm))
        exact ⟨b', performs_walkChild_dir ho hn hc (hle.trans hpath) (by rw [dirBytes_length]; omega) hsub⟩

end

end Sys2Proof.Machine
end

section
/-! PROOFS. CDIR's whole history on a quiet host, and the statement about it (46_operations.md R145 to R149, R164). -/

namespace Sys2Proof.Machine

open Sys2Proof.Certificates

theorem exec_cdir (s : State) {r : Except Err Unit} {h : HostSide}
    (hr : compressDirectory s.cap s.params.walkDepthMax s.params.archiveExt s.pin s.pout s.host = (r, h)) :
    exec .cdir s = .next ((s.setHost h).setStatus 0x1A#8 (endCode (resultError r))) := by
  rw [exec_operation rfl (by decide), State.operate_eq]
  show Host.Outcome.next ((s.setHost (compressDirectory ..).2).setStatus _ (endCode (resultError (compressDirectory ..).1)))
    = _
  rw [hr]
  rfl

/-- What CDIR writes with the archive open: the header and the entries of the walk (R145). -/
def cdirBody (cap depth : Nat) (pin : Bytes) : Act Unit :=
  (emitBuilt cap (headerWrite true (lastSeg pin))).bind fun _ => walk cap depth pin []

/-- CDIR of a directory opens the archive after one H_STAT (R145). -/
theorem compressDirectory_opens {cap depth n : Nat} {ext pin pout : Bytes} {h : HostSide} (hq : Quiet (2 + n) h)
    (hdir : fsLookup h.files pin = some .dir) (hname : validName (lastSeg pin) = true) :
    ∃ es h', Served h es h' ∧ es.map Prod.fst = [.stat pin, .create (outPath ext pin pout)] ∧
      h'.disk = archiveDisk h.files (outPath ext pin pout) [] ∧ Quiet n h' ∧
      compressDirectory cap depth ext pin pout h =
        (closingOnError (cdirBody cap depth pin)).bind (fun _ => demand .close) h' := by
  rw [show 2 + n = 1 + (1 + n) by omega] at hq
  obtain ⟨es1, h1, hs1, hes1, hd1, hq1, hb1⟩ := (Performs.stat_dir (a := h.archive) hdir).peel rfl hq
  obtain ⟨es2, h2, hs2, hes2, hd2, hq2, hb2⟩ := (performs_create _ _ (outPath ext pin pout)).peel hd1 hq1
  refine ⟨es1 ++ es2, h2, hs1.trans hs2, by rw [List.map_append, hes1, hes2]; rfl, hd2, hq2, ?_⟩
  unfold compressDirectory
  rw [hb1]
  simp only [hname, if_true]
  rw [hb2]
  rfl

theorem outside_pin {out pin : Bytes} (hname : validName (lastSeg pin) = true) (hout : descendant out pin = false) :
    Outside out pin :=
  ⟨fun hp => validName_ne_nil hname (by rw [hp]; rfl), hout⟩

theorem performs_cdirBody {cap depth : Nat} {fs : FileSystem} {out pin : Bytes} {qs : List HostReq} {r : Except Err Unit} {d' : Disk}
    (hlen : (lastSeg pin).length ≤ Config.maxStr) (hcap : (headerBytes true (lastSeg pin)).length ≤ cap)
    (h : Performs (archiveDisk fs out (headerBytes true (lastSeg pin))) (walk cap depth pin []) qs r d') :
    Performs (archiveDisk fs out []) (cdirBody cap depth pin) (.append (headerBytes true (lastSeg pin)) :: qs) r d' :=
  (performs_emitBuilt [] (headerWrite_of_le hlen) hcap).bind h

/-- The last request of an archive: whatever is answered, the filesystem stays; IOFAIL is IOFailure (R162, R164). -/
theorem demand_close_apply {h : HostSide} (hm : h.mayChange = false) :
    (demand .close h).1 = (if h.draw.fail then .error .ioFailure else .ok ()) ∧
      (demand .close h).2 = h.after .close ∧ (h.after .close).files = h.files := by
  have hreply : h.reply .close = if h.draw.fail then .ioFail else .ok := replyTo_write _ _ _ (.inr (.inr (.inl rfl)))
  rw [demand_apply]
  refine ⟨?_, rfl, ?_⟩
  · rw [hreply]
    cases h.draw.fail <;> rfl
  · show (if h.reply .close = .ioFail then filesOnFail _ _ _ h.found else h.found) = h.files
    rw [HostSide.found_of_stable hm]
    split
    · cases h.draw.landed <;> rfl
    · rfl

/-- CDIR of a tree whose entries all fit: the requests, the reply of the last H_CLOSE as the end, and the archive. -/
theorem compressDirectory_tree {cap depth : Nat} {ext pin pout : Bytes} {frame : Bytes → Frame} {h : HostSide}
    {es : List (Bytes × Option Bytes)} {qs : List HostReq} {d : Draw} (hdir : fsLookup h.files pin = some .dir)
    (hname : validName (lastSeg pin) = true) (hlen : (lastSeg pin).length ≤ Config.maxStr)
    (hcap : (headerBytes true (lastSeg pin)).length ≤ cap) (hout : descendant (outPath ext pin pout) pin = false)
    (hes : treeEntries depth h.files pin [] = some es) (hfit : ∀ e ∈ es, WalkFits cap frame e)
    (hqs : treeRequests frame depth h.files pin [] = some qs) (hq : Quiet (3 + qs.length) h)
    (hd : h.draws[3 + qs.length]? = some d) :
    ∃ h', compressDirectory cap depth ext pin pout h = (if d.fail then .error .ioFailure else .ok (), h') ∧
      h'.trace.map Prod.fst = h.trace.map Prod.fst ++
        [.stat pin, .create (outPath ext pin pout), .append (headerBytes true (lastSeg pin))] ++ qs ++ [.close] ∧
      h'.files = fsInsert (outPath ext pin pout)
        (.file (headerBytes true (lastSeg pin) ++ entriesBytes frame es)) h.files := by
  rw [show 3 + qs.length = 2 + (qs.length + 1 + 0) by omega] at hq
  obtain ⟨ev1, h1, hs1, hev1, hd1, hq1, hrun1⟩ :=
    compressDirectory_opens (cap := cap) (depth := depth) (ext := ext) (pout := pout) hq hdir hname
  have hbody := performs_cdirBody hlen hcap
    (performs_walk_tree (outside_pin hname hout) hes hqs hfit (headerBytes true (lastSeg pin)))
  obtain ⟨ev2, h2, hs2, hev2, hd2, hq2, hrun2⟩ := hbody.closingOnError.peel hd1 hq1
  have hs := hs1.trans hs2
  have hev : (ev1 ++ ev2).map Prod.fst =
      [.stat pin, .create (outPath ext pin pout), .append (headerBytes true (lastSeg pin))] ++ qs := by
    rw [List.map_append, hev1, hev2]
    rfl
  have hdraw : h2.draw = d := by
    have hcount : (ev1 ++ ev2).length = 3 + qs.length := by
      rw [← List.length_map (f := Prod.fst), hev, List.length_append]
      rfl
    exact HostSide.draw_of_getElem? (by rw [hs.draws, List.getElem?_drop, hcount, ← hd]; rfl)
  obtain ⟨hend, hafter, hfiles⟩ := demand_close_apply hq2.1
  refine ⟨(demand .close h2).2, ?_, ?_, ?_⟩
  · rw [hrun1, hrun2, ← hdraw, ← hend]
  · rw [hafter, HostSide.after_trace, hs.trace]
    simp only [List.map_append, List.map_cons, List.map_nil, ← hev, List.append_assoc]
  · rw [hafter, hfiles]
    exact congrArg Disk.files hd2

/-- CDIR of a tree nested too deep: the requests up to the first directory past the limit, then H_CLOSE and
CapacityExceeded (R149, R163). -/
theorem compressDirectory_deep {cap depth : Nat} {ext pin pout : Bytes} {frame : Bytes → Frame} {h : HostSide}
    {qs : List HostReq} (hdir : fsLookup h.files pin = some .dir)
    (hname : validName (lastSeg pin) = true) (hlen : (lastSeg pin).length ≤ Config.maxStr)
    (hcap : (headerBytes true (lastSeg pin)).length ≤ cap) (hout : descendant (outPath ext pin pout) pin = false)
    (hwalk : walkRequests frame depth h.files pin [] = (qs, false)) (hfits : AllFits cap frame h.files)
    (hq : Quiet (3 + qs.length) h) :
    ∃ h', compressDirectory cap depth ext pin pout h = (.error .capacityExceeded, h') ∧
      h'.trace.map Prod.fst = h.trace.map Prod.fst ++
        [.stat pin, .create (outPath ext pin pout), .append (headerBytes true (lastSeg pin))] ++ qs ++ [.close] := by
  rw [show 3 + qs.length = 2 + (qs.length + 1) by omega] at hq
  obtain ⟨ev1, h1, hs1, hev1, hd1, hq1, hrun1⟩ :=
    compressDirectory_opens (cap := cap) (depth := depth) (ext := ext) (pout := pout) hq hdir hname
  obtain ⟨b', hdeep⟩ := performs_walk_upTo (n := depth) (rel := []) hfits (outside_pin hname hout) (Nat.zero_le _)
    (headerBytes true (lastSeg pin))
  rw [hwalk] at hdeep
  obtain ⟨ev2, h2, hs2, hev2, hrun2⟩ := (performs_cdirBody hlen hcap hdeep).closingOnError_error hd1 hq1
  refine ⟨h2.after .close, by rw [hrun1, hrun2], ?_⟩
  rw [HostSide.after_trace, (hs1.trans hs2).trace]
  simp only [List.map_append, hev1, hev2, List.map_cons, List.map_nil, List.append_assoc, List.cons_append,
    List.nil_append]

end Sys2Proof.Machine
end

section
/-! PROOFS. The statement about CDIR (46_operations.md R145 to R149, R164; 20_memory.md R57, R61). -/

namespace Sys2Proof.Proofs

open Sys2Proof Sys2Proof.Machine Sys2Proof.Certificates

/-- Settles O36: `compressDirectory_tree` for a tree that fits, by induction on the levels of the walk and on the sorted names
of each, and `compressDirectory_deep` for one nested too deep. -/
theorem cdirWritesTree : Obligations.CdirWritesTree := by
  rintro s out frame hdir hname hlen hcap rfl hout
  constructor
  · intro es qs hes hfit hframes hqs hq d hd
    have hfits : ∀ e ∈ es, WalkFits s.cap frame e := fun e he => ⟨(hfit e he).1, (hfit e he).2, hframes e he⟩
    obtain ⟨h, hrun, htrace, hfiles⟩ := compressDirectory_tree hdir hname hlen hcap hout hes hfits hqs hq hd
    refine ⟨_, exec_cdir s hrun, ?_, htrace, ?_, fun p hp => ?_⟩
    · cases d.fail <;> rfl
    · exact (congrArg (fsLookup · _) hfiles).trans (fsLookup_fsInsert_self ..)
    · exact (congrArg (fsLookup · p) hfiles).trans (fsLookup_fsInsert_of_ne _ _ hp)
  · intro qs hwalk hspecial hpaths hfiles hq
    obtain ⟨h, hrun, htrace⟩ := compressDirectory_deep hdir hname hlen hcap hout hwalk ⟨hspecial, hpaths, hfiles⟩
      (quiet_mono hq (by omega))
    exact ⟨_, exec_cdir s hrun, rfl, htrace⟩

end Sys2Proof.Proofs
end

section
/-! PROOFS. The decoder of command words: each command has exactly one word, and every legal word is a command's
(30_encoding.md R64 to R67). -/

namespace Sys2Proof

/-- The opcode map of R65 and R66, read as a relation: an opcode and a K bit stand for the command that carries them. -/
theorem decodeOp_eq_some_iff {n : Nat} {k : Bool} {i : Instr} :
    decodeOp n k = some i ↔ n = (opcode i).toNat ∧ k = kBit i := by
  constructor
  · intro h
    unfold decodeOp at h
    split at h <;> cases h <;> exact ⟨rfl, rfl⟩
  · rintro ⟨rfl, rfl⟩
    cases i <;> rfl

/-- The opcode map is defined exactly at the assigned opcodes, with K = 1 only where K is used (R65, R66). -/
theorem decodeOp_isSome (op : Byte) (k : Bool) :
    (decodeOp op.toNat k).isSome = (assignedOp op && (!k || usesK op)) := by
  rw [Bool.eq_iff_iff, Option.isSome_iff_exists]
  constructor
  · rintro ⟨i, hi⟩
    obtain ⟨hop, rfl⟩ := decodeOp_eq_some_iff.1 hi
    obtain rfl := BitVec.eq_of_toNat_eq hop
    cases i <;> rfl
  · intro h
    unfold assignedOp usesK at h
    generalize op.toNat = n at h ⊢
    have hn : n ≤ 0x1C := by
      simp only [Bool.and_eq_true, Bool.or_eq_true, decide_eq_true_eq] at h
      omega
    rw [← Option.isSome_iff_exists]
    revert h
    interval_cases n <;> cases k <;> decide

/-- The fields of R64 make up the whole word. -/
theorem word_ext {v w : Word} (hrsv : rsvField v = rsvField w) (hk : kField v = kField w) (hop : opField v = opField w) :
    v = w := by
  refine BitVec.eq_of_getLsbD_eq fun j hj => ?_
  rcases Nat.lt_trichotomy j 8 with h | rfl | h
  · simpa [opField, h] using congrArg (fun x => x.getLsbD j) hop
  · exact hk
  · have hlow : j - 9 < 23 := by omega
    have hj' : 9 + (j - 9) = j := by omega
    simpa [rsvField, hlow, hj'] using congrArg (fun x => x.getLsbD (j - 9)) hrsv

/-- Each command's own word has its fields and decodes to it (R64 to R66). -/
theorem roundTrip (i : Instr) : Laws.RoundTrip.Statement i := by
  open Laws.RoundTrip in
  cases i
  exacts [freq, build, codes, trie, tser, tdes, pack, unpack, fenc, fdec, pwr, prd, pskip, ewrDir, ewrFile, erd, hwrFile,
    hwrFold, hrdFile, hrdFold, cfile, dfile, cdir, ddir, prev]

theorem decode_encode (i : Instr) : decode (encode i) = some i :=
  have ⟨_, h, _⟩ := roundTrip i
  h

/-- A word decodes exactly when its reserved bits are 0 and its other fields stand for a command (R64). -/
theorem decode_eq_some_iff {w : Word} {i : Instr} :
    decode w = some i ↔ rsvField w = 0 ∧ decodeOp (opField w).toNat (kField w) = some i := by
  unfold decode
  split
  · next h => exact ⟨fun hd => ⟨h, hd⟩, And.right⟩
  · next h => exact ⟨nofun, fun hd => absurd hd.1 h⟩

end Sys2Proof
end

section
/-! PROOFS. The statements about the decoder (30_encoding.md R64 to R67). -/

namespace Sys2Proof.Proofs

/-- Settles O1: the reserved bits are checked alike on both sides, and the opcode map is defined exactly at the legal
opcodes and K bits. -/
theorem decodeAcceptsExactlyLegalWords : Obligations.DecodeAcceptsExactlyLegalWords := by
  intro w
  unfold decode legalWord
  by_cases h : rsvField w = 0
  · rw [if_pos h, beq_iff_eq.2 h, Bool.and_true]
    exact decodeOp_isSome _ _
  · rw [if_neg h, beq_eq_false_iff_ne.2 h, Bool.and_false]
    rfl

/-- Settles O2: a word that decodes to a command has the three fields of the command's own word, so it is that word. -/
theorem everyCommandHasExactlyOneWord : Obligations.EveryCommandHasExactlyOneWord := by
  intro i w
  constructor
  · intro h
    obtain ⟨hrsv, hmap⟩ := decode_eq_some_iff.1 h
    obtain ⟨hop, hk⟩ := decodeOp_eq_some_iff.1 hmap
    obtain ⟨-, -, hop', hk', hrsv'⟩ := roundTrip i
    exact word_ext (hrsv.trans hrsv'.symm) (hk.trans hk'.symm) ((BitVec.eq_of_toNat_eq hop).trans hop'.symm)
  · rintro rfl
    exact decode_encode i

/-- Settles O3: each word is the word of its command, which decodes to it. -/
theorem specWordsDecode : Obligations.SpecWordsDecode :=
  ⟨decode_encode .freq, decode_encode .pack, decode_encode .pwr, decode_encode .ewrFile, decode_encode .ewrDir,
    decode_encode .hwrFold, decode_encode .hrdFile, decode_encode .prev⟩

end Sys2Proof.Proofs
end

section
/-! PROOFS. Byte layouts and cursors (20_memory.md R43 to R46): what a reader makes of a whole layout and of one cut short,
and the layout that a reader which answered has gone over. -/

namespace Sys2Proof.Machine

open Sys2Proof.Certificates

/-! ### Big-endian fields (R43) -/

/-- A field's bytes are determined by their value. -/
theorem beBytes_beNat (b : Bytes) : beBytes b.length (beNat b) = b := by
  induction b using List.reverseRecOn with
  | nil => rfl
  | append_singleton b x ih =>
    have hx := x.isLt
    have hdiv : (256 * beNat b + x.toNat) / 256 = beNat b := by omega
    rw [List.length_append, List.length_singleton, beBytes, beNat_append_one, hdiv, ih]
    congr 2
    exact BitVec.eq_of_toNat_eq (by rw [BitVec.toNat_ofNat]; omega)

@[simp] theorem u16_length (v : Nat) : (u16 v).length = 2 := rfl

@[simp] theorem u32_length (v : Nat) : (u32 v).length = 4 := rfl

/-! ### The bytes at a cursor -/

/-- The cursor `p` lies within the stream `s`, and the bytes from there on are `z`. -/
def RestAt (s : Bytes) (p : Nat) (z : Bytes) : Prop := ∃ pre, s = pre ++ z ∧ pre.length = p

theorem restAt_drop {s : Bytes} {p : Nat} (h : p ≤ s.length) : RestAt s p (s.drop p) :=
  ⟨s.take p, (List.take_append_drop p s).symm, List.length_take_of_le h⟩

theorem RestAt.length {s z : Bytes} {p : Nat} (h : RestAt s p z) : s.length = p + z.length := by
  obtain ⟨pre, rfl, rfl⟩ := h
  exact List.length_append

theorem RestAt.drop {s z : Bytes} {p : Nat} (h : RestAt s p z) : s.drop p = z := by
  obtain ⟨pre, rfl, rfl⟩ := h
  exact List.drop_left

theorem RestAt.tail {s x y : Bytes} {p : Nat} (h : RestAt s p (x ++ y)) : RestAt s (p + x.length) y := by
  obtain ⟨pre, rfl, rfl⟩ := h
  exact ⟨pre ++ x, (List.append_assoc ..).symm, List.length_append⟩

/-- The bytes between the cursors `p` and `p'` of the stream `s` are `x`. -/
def Spans (s : Bytes) (p p' : Nat) (x : Bytes) : Prop := p' = p + x.length ∧ ∃ y, RestAt s p (x ++ y)

theorem Spans.nil {s : Bytes} {p : Nat} (h : p ≤ s.length) : Spans s p p [] := ⟨rfl, _, restAt_drop h⟩

theorem Spans.append {s x y : Bytes} {p q r : Nat} (hx : Spans s p q x) (hy : Spans s q r y) : Spans s p r (x ++ y) := by
  obtain ⟨rfl, x', hx⟩ := hx
  obtain ⟨rfl, y', hy⟩ := hy
  obtain rfl : x' = y ++ y' := hx.tail.drop.symm.trans hy.drop
  exact ⟨by rw [List.length_append]; omega, y', by rwa [List.append_assoc]⟩

theorem Spans.le {s x : Bytes} {p p' : Nat} (h : Spans s p p' x) : p' ≤ s.length := by
  obtain ⟨rfl, y, hy⟩ := h
  have := hy.length
  rw [List.length_append] at this
  omega

theorem Spans.split {s x : Bytes} {p p' : Nat} (h : Spans s p p' x) : ∃ pre r, s = pre ++ x ++ r ∧ p = pre.length := by
  obtain ⟨-, y, pre, rfl, rfl⟩ := h
  exact ⟨pre, y, (List.append_assoc ..).symm, rfl⟩

/-! ### Readers of a layout -/

/-- The reader `rd` takes the bytes `x`, whatever follows them, as the value `a`, and ends in TruncatedStream where the
stream ends before `x` does. -/
structure Parses {α : Type} (rd : Bytes → Nat → Except Err (α × Nat)) (x : Bytes) (a : α) : Prop where
  whole : ∀ {s y p}, RestAt s p (x ++ y) → rd s p = .ok (a, p + x.length)
  cut : ∀ {s p k}, k < x.length → RestAt s p (x.take k) → rd s p = .error .truncatedStream

namespace Parses

variable {α β : Type} {rd : Bytes → Nat → Except Err (α × Nat)} {x y : Bytes} {a : α} {b : β}

theorem pure (a : α) : Parses (fun _ p => .ok (a, p)) [] a := ⟨fun _ => rfl, fun h => absurd h (Nat.not_lt_zero _)⟩

/-- One layout after another; `f` is the rest of the reader's computation, from the first value and the cursor after it. -/
theorem bind {f : Bytes → α × Nat → Except Err (β × Nat)} (hx : Parses rd x a)
    (hy : Parses (fun s q => f s (a, q)) y b) : Parses (fun s p => rd s p >>= f s) (x ++ y) b where
  whole {s z p} h := by
    rw [List.append_assoc] at h
    rw [hx.whole h, List.length_append, ← Nat.add_assoc]
    exact hy.whole h.tail
  cut {s p k} hk h := by
    rw [List.length_append] at hk
    by_cases hkx : k < x.length
    · rw [List.take_append_of_le_length hkx.le] at h
      rw [hx.cut hkx h]
      rfl
    · rw [List.take_append, List.take_of_length_le (by omega)] at h
      rw [hx.whole h]
      exact hy.cut (by omega) h.tail

theorem map {g : α → β} (hx : Parses rd x a) :
    Parses (fun s p => do
      let (v, q) ← rd s p
      .ok (g v, q)) x (g a) := by
  simpa using hx.bind (f := fun _ r => .ok (g r.1, r.2)) (pure (g a))

/-- A check that holds. -/
theorem check {c : Bool} {e : Err} (hc : c = true) (hx : Parses rd x a) :
    Parses (fun s p => do
      require c e
      rd s p) x a := by
  subst hc
  exact hx

/-- A check that enough bytes are left for what comes. -/
theorem room {m : Nat} (hm : m ≤ x.length) (hx : Parses rd x a) :
    Parses (fun s p => do
      require (decide (m ≤ s.length - p)) .truncatedStream
      rd s p) x a where
  whole {s z p} h := by
    have hlen := h.length
    rw [List.length_append] at hlen
    rw [decide_eq_true (by omega : m ≤ s.length - p)]
    exact hx.whole h
  cut {s p k} hk h := by
    by_cases hroom : m ≤ s.length - p
    · rw [decide_eq_true hroom]
      exact hx.cut hk h
    · rw [decide_eq_false hroom]
      rfl

end Parses

/-! ### The field primitives (R44, R45) -/

theorem rdBytes_parses {n : Nat} {x : Bytes} (hn : x.length = n) : Parses (rdBytes n) x x where
  whole {s y p} h := by
    subst hn
    have hlen := h.length
    rw [List.length_append] at hlen
    exact (rdBytes_ok_iff ..).2 ⟨by omega, by rw [h.drop, List.take_left], rfl⟩
  cut {s p k} hk h := by
    have hlen := h.length
    rw [List.length_take_of_le hk.le] at hlen
    exact (rdBytes_error_iff ..).2 ⟨by omega, rfl⟩

theorem rdBytes_spans {n : Nat} {s x : Bytes} {p p' : Nat} (h : rdBytes n s p = .ok (x, p')) :
    Spans s p p' x ∧ x.length = n := by
  obtain ⟨hle, rfl, rfl⟩ := (rdBytes_ok_iff ..).1 h
  have hlen : ((s.drop p).take n).length = n := by
    rw [List.length_take_of_le]
    rw [List.length_drop]
    omega
  refine ⟨⟨by rw [hlen], (s.drop p).drop n, ?_⟩, hlen⟩
  rw [List.take_append_drop]
  exact restAt_drop (by omega)

theorem rdUInt_parses {n v : Nat} (hv : v < 256 ^ n) : Parses (rdUInt n) (beBytes n v) v := by
  have h := (rdBytes_parses (beBytes_length n v)).map (g := beNat)
  rwa [beNat_beBytes, Nat.mod_eq_of_lt hv] at h

theorem rdUInt_spans {n v p p' : Nat} {s : Bytes} (h : rdUInt n s p = .ok (v, p')) :
    Spans s p p' (beBytes n v) ∧ v < 256 ^ n := by
  obtain ⟨⟨b, q⟩, hb, h⟩ := (Except.bind_ok_iff _ _ _).1 h
  cases h
  obtain ⟨hspan, rfl⟩ := rdBytes_spans hb
  exact ⟨by rwa [beBytes_beNat], beNat_lt b⟩

theorem rdU8_parses (b : Byte) : Parses rdU8 [b] b := by
  have h := (rdUInt_parses (n := 1) b.isLt).map (g := BitVec.ofNat 8)
  rw [BitVec.ofNat_toNat, BitVec.setWidth_eq] at h
  have hb : beBytes 1 b.toNat = [b] := by simp [beBytes]
  exact hb ▸ h

theorem rdU8_spans {s : Bytes} {p p' : Nat} {b : Byte} (h : rdU8 s p = .ok (b, p')) : Spans s p p' [b] := by
  obtain ⟨⟨v, q⟩, hv, h⟩ := (Except.bind_ok_iff _ _ _).1 h
  cases h
  exact (rdUInt_spans hv).1

theorem rdU16_parses {v : Nat} (hv : v < 2 ^ 16) : Parses rdU16 (u16 v) v := rdUInt_parses (n := 2) hv

theorem rdU16_spans {s : Bytes} {p p' v : Nat} (h : rdU16 s p = .ok (v, p')) : Spans s p p' (u16 v) := (rdUInt_spans h).1

theorem rdU32_parses {v : Nat} (hv : v < 2 ^ 32) : Parses rdU32 (u32 v) v :=
  beBytes_four v ▸ rdUInt_parses (n := 4) hv

theorem rdU32_spans {s : Bytes} {p p' v : Nat} (h : rdU32 s p = .ok (v, p')) : Spans s p p' (u32 v) :=
  beBytes_four v ▸ (rdUInt_spans h).1

theorem rdStr_parses {b : Bytes} (hb : b.length ≤ Config.maxStr) : Parses rdStr (strBytes b) b :=
  (rdU16_parses (Nat.lt_succ_of_le hb)).bind (rdBytes_parses rfl)

theorem rdStr_spans {s b : Bytes} {p p' : Nat} (h : rdStr s p = .ok (b, p')) : Spans s p p' (strBytes b) := by
  obtain ⟨⟨n, q⟩, hn, h⟩ := (Except.bind_ok_iff _ _ _).1 h
  obtain ⟨hb, rfl⟩ := rdBytes_spans h
  exact (rdU16_spans hn).append hb

/-- A field that the stream ends within, or starts past the end, is TruncatedStream (R46). -/
theorem rdUInt_short {n p : Nat} {s : Bytes} (h : s.length < p + n) : rdUInt n s p = .error .truncatedStream := by
  rw [rdUInt_eq, if_neg (Nat.not_le_of_lt h)]

end Sys2Proof.Machine
end

section
/-! PROOFS. TDES on the layout of a code table (41_tree_codetable.md R97, R98): the table it reads, the errors of its checks,
and the layout that a table it accepts has. -/

namespace Sys2Proof.Machine

open Sys2Proof.Certificates

/-! ### A table as the collection of its entries -/

theorem mapGet_eq_none_iff {α : Type} {m : List (Byte × α)} {b : Byte} : mapGet m b = none ↔ ∀ e ∈ m, e.1 ≠ b := by
  induction m with
  | nil => simp [mapGet]
  | cons x m ih =>
    unfold mapGet
    split <;> simp_all

/-- Setting a new key adds its entry. -/
theorem mapSet_perm {α : Type} {b : Byte} {v : α} {m : List (Byte × α)} (h : ∀ e ∈ m, e.1 ≠ b) :
    (mapSet b v m).Perm ((b, v) :: m) := by
  induction m with
  | nil => exact .refl _
  | cons x m ih =>
    obtain ⟨hx, hm⟩ := List.forall_mem_cons.1 h
    unfold mapSet
    split
    · next hb => exact absurd hb.symm hx
    · split
      · exact .refl _
      · exact ((ih hm).cons x).trans (.swap _ _ m)

theorem Ascending.keys_nodup {α : Type} {m : List (Byte × α)} (h : Ascending m) : (m.map Prod.fst).Nodup :=
  List.pairwise_map.2 (h.imp fun hab he => Nat.ne_of_lt hab (congrArg BitVec.toNat he))

theorem keys_nodup_of_perm {l : List (Byte × Bits)} {c : CodeTable} (hc : Ascending c) (hl : l.Perm c) :
    ((l ++ []).map Prod.fst).Nodup := by
  rw [List.append_nil]
  exact (hl.map _).nodup_iff.2 hc.keys_nodup

/-- A table is determined by the collection of its entries. -/
theorem Ascending.eq_of_perm {α : Type} {m m' : List (Byte × α)} (hm : Ascending m) (hm' : Ascending m')
    (h : m.Perm m') : m = m' :=
  h.eq_of_pairwise (fun _ _ _ _ hab hba => absurd hab (Nat.lt_asymm hba)) hm hm'

/-- The table with the entries of `l` set one after another. -/
def addEntries (l : List (Byte × Bits)) (c : CodeTable) : CodeTable := l.foldl (fun c e => mapSet e.1 e.2 c) c

theorem addEntries_ascending {l : List (Byte × Bits)} {c : CodeTable} (hc : Ascending c) : Ascending (addEntries l c) := by
  induction l generalizing c with
  | nil => exact hc
  | cons e l ih => exact ih (mapSet_ascending hc)

/-- Of entries with different keys the first can be set, and the others stay new. -/
theorem keys_nodup_mapSet {e : Byte × Bits} {l : List (Byte × Bits)} {c : CodeTable}
    (h : ((e :: l ++ c).map Prod.fst).Nodup) :
    mapGet c e.1 = none ∧ (l ++ mapSet e.1 e.2 c).Perm (e :: l ++ c) ∧ ((l ++ mapSet e.1 e.2 c).map Prod.fst).Nodup := by
  have hnew : ∀ x ∈ c, x.1 ≠ e.1 := fun x hx he =>
    (List.nodup_cons.1 h).1 (List.mem_map.2 ⟨x, List.mem_append_right _ hx, he⟩)
  have hset : (l ++ mapSet e.1 e.2 c).Perm (e :: l ++ c) := ((mapSet_perm hnew).append_left l).trans List.perm_middle
  exact ⟨mapGet_eq_none_iff.2 hnew, hset, (hset.map _).nodup_iff.2 h⟩

theorem addEntries_perm {l : List (Byte × Bits)} {c : CodeTable} (h : ((l ++ c).map Prod.fst).Nodup) :
    (addEntries l c).Perm (l ++ c) := by
  induction l generalizing c with
  | nil => exact .refl _
  | cons e l ih =>
    obtain ⟨-, hset, hnd⟩ := keys_nodup_mapSet h
    exact (ih hnd).trans hset

/-- Any order of a table's entries gives the table. -/
theorem addEntries_of_perm {l : List (Byte × Bits)} {c : CodeTable} (hc : Ascending c) (hl : l.Perm c) :
    addEntries l [] = c := by
  have hperm := addEntries_perm (keys_nodup_of_perm hc hl)
  rw [List.append_nil] at hperm
  exact (addEntries_ascending .nil).eq_of_perm hc (hperm.trans hl)

/-! ### The units of a code (R78) -/

theorem unitBytes_cons (x : Bool) (c : Bits) : unitBytes (x :: c) = u16 (if x then 0x31 else 0x30) ++ unitBytes c := by
  cases x <;> rfl

@[simp] theorem unitBytes_length (c : Bits) : (unitBytes c).length = 2 * c.length := by
  induction c with
  | nil => rfl
  | cons x c ih =>
    rw [unitBytes_cons, List.length_append, u16_length, ih, List.length_cons]
    omega

theorem unit_lt (x : Bool) : (if x then 0x31 else 0x30) < 2 ^ 16 := by cases x <;> decide

theorem unitBit_ok_iff {u : Nat} {x : Bool} : unitBit u = .ok x ↔ u = if x then 0x31 else 0x30 := by
  unfold unitBit
  split
  · cases x <;> simp [*]
  · split <;> cases x <;> simp [*]

theorem rdBits_parses (c : Bits) : Parses (rdBits c.length) (unitBytes c) c := by
  induction c with
  | nil => exact .pure []
  | cons x c ih =>
    rw [unitBytes_cons]
    refine (rdU16_parses (unit_lt x)).bind ?_
    show Parses (fun s p => unitBit _ >>= _) _ _
    rw [unitBit_ok_iff.2 rfl]
    exact ih.map

theorem rdBits_spans {n : Nat} {s : Bytes} {p p' : Nat} {c : Bits} (hp : p ≤ s.length) (h : rdBits n s p = .ok (c, p')) :
    Spans s p p' (unitBytes c) := by
  induction n generalizing p c with
  | zero => cases h; exact .nil hp
  | succ n ih =>
    obtain ⟨⟨u, q⟩, hu, h⟩ := (Except.bind_ok_iff _ _ _).1 h
    obtain ⟨x, hx, h⟩ := (Except.bind_ok_iff _ _ _).1 h
    obtain ⟨⟨bits, r⟩, hbits, h⟩ := (Except.bind_ok_iff _ _ _).1 h
    cases h
    have hspan := rdU16_spans hu
    rw [unitBytes_cons, ← unitBit_ok_iff.1 hx]
    exact hspan.append (ih hspan.le hbits)

theorem rdBits_succ {n u : Nat} {s r : Bytes} {p : Nat} (hu : u < 2 ^ 16) (h : RestAt s p (u16 u ++ r)) :
    rdBits (n + 1) s p = (do
      let bit ← unitBit u
      let (bits, q) ← rdBits n s (p + (u16 u).length)
      .ok (bit :: bits, q)) := by
  rw [rdBits, (rdU16_parses hu).whole h]
  rfl

/-- A unit of another value after good ones is Malformed (R97). -/
theorem rdBits_badUnit {n u : Nat} {bits : Bits} {s r : Bytes} {p : Nat} (hn : bits.length < n) (hu : u < 2 ^ 16)
    (h0 : u ≠ 0x30) (h1 : u ≠ 0x31) (h : RestAt s p (unitBytes bits ++ (u16 u ++ r))) :
    rdBits n s p = .error .malformed := by
  induction bits generalizing n p with
  | nil =>
    obtain ⟨n, rfl⟩ := Nat.exists_eq_succ_of_ne_zero (Nat.ne_zero_of_lt hn)
    have hbad : unitBit u = .error .malformed := by simp [unitBit, h0, h1]
    rw [rdBits_succ hu h, hbad]
    rfl
  | cons x bits ih =>
    obtain ⟨n, rfl⟩ := Nat.exists_eq_succ_of_ne_zero (Nat.ne_zero_of_lt hn)
    rw [unitBytes_cons, List.append_assoc] at h
    rw [rdBits_succ (unit_lt x) h, unitBit_ok_iff.2 rfl, ih (Nat.lt_of_succ_lt_succ hn) h.tail]
    rfl

/-! ### Entries (R77, R97) -/

/-- The bounds of a code's length hold for every entry of the list. -/
def CodesFit (l : List (Byte × Bits)) : Prop := ∀ e ∈ l, 1 ≤ e.2.length ∧ e.2.length ≤ Config.maxCodeBits

theorem CodesFit.of_perm {l : List (Byte × Bits)} {c : CodeTable} (hc : CtWf c) (hl : l.Perm c) : CodesFit l :=
  fun e he => hc.2 e (hl.mem_iff.1 he)

@[simp] theorem codeEntryBytes_length (e : Byte × Bits) : (codeEntryBytes e).length = 5 + 2 * e.2.length := by
  simp [codeEntryBytes]
  omega

theorem length_flatMap_codeEntryBytes (l : List (Byte × Bits)) : 5 * l.length ≤ (l.flatMap codeEntryBytes).length := by
  induction l with
  | nil => exact Nat.le_refl 0
  | cons e l ih =>
    rw [List.flatMap_cons, List.length_append, List.length_cons, codeEntryBytes_length]
    omega

theorem tdesEntries_parses {l : List (Byte × Bits)} {c : CodeTable} (hl : CodesFit l)
    (hnd : ((l ++ c).map Prod.fst).Nodup) :
    Parses (fun s p => tdesEntries l.length s p c) (l.flatMap codeEntryBytes) (addEntries l c) := by
  induction l generalizing c with
  | nil => exact .pure c
  | cons e l ih =>
    obtain ⟨⟨h1, h255⟩, hl⟩ := List.forall_mem_cons.1 hl
    have hlen : e.2.length < 2 ^ 32 := h255.trans_lt (by decide)
    have hrange : (e.2.length != 0 && decide (e.2.length ≤ Config.maxCodeBits)) = true := by
      simp only [Bool.and_eq_true, bne_iff_ne, decide_eq_true_eq]
      omega
    obtain ⟨hget, -, hnd⟩ := keys_nodup_mapSet hnd
    have hnew : (codeOf c e.1).isNone = true := Option.isNone_iff_eq_none.2 hget
    have hbytes : (e :: l).flatMap codeEntryBytes =
        [e.1] ++ (u32 e.2.length ++ (unitBytes e.2 ++ l.flatMap codeEntryBytes)) := by
      simp [codeEntryBytes]
    have hroom : 2 * e.2.length ≤ (unitBytes e.2 ++ l.flatMap codeEntryBytes).length := by simp
    rw [hbytes]
    show Parses (fun s p => tdesEntries (l.length + 1) s p c) _ _
    unfold tdesEntries
    refine (rdU8_parses e.1).bind ?_
    refine (rdU32_parses hlen).bind ?_
    refine .check hrange (.room hroom ?_)
    refine (rdBits_parses e.2).bind ?_
    exact .check hnew (ih hl hnd)

/-- Reading entries in two parts. -/
theorem tdesEntries_add (n m : Nat) (s : Bytes) (p : Nat) (c : CodeTable) :
    tdesEntries (n + m) s p c = tdesEntries n s p c >>= fun r => tdesEntries m s r.2 r.1 := by
  induction n generalizing p c with
  | zero => rw [Nat.zero_add]; rfl
  | succ n ih =>
    rw [Nat.add_right_comm]
    simp only [tdesEntries, bind_assoc, ih]

/-- The entries read are laid out one after another, and they are what the table has gained (R103). -/
theorem tdesEntries_spans {n : Nat} {s : Bytes} {p p' : Nat} {c c' : CodeTable} (hp : p ≤ s.length)
    (h : tdesEntries n s p c = .ok (c', p')) :
    ∃ l, l.length = n ∧ (l ++ c).Perm c' ∧ Spans s p p' (l.flatMap codeEntryBytes) := by
  induction n generalizing p c with
  | zero => cases h; exact ⟨[], rfl, .refl _, .nil hp⟩
  | succ n ih =>
    obtain ⟨⟨b, p1⟩, hb, h⟩ := (Except.bind_ok_iff _ _ _).1 h
    obtain ⟨⟨len, p2⟩, hlen, h⟩ := (Except.bind_ok_iff _ _ _).1 h
    obtain ⟨_, -, h⟩ := (Except.bind_ok_iff _ _ _).1 h
    obtain ⟨_, -, h⟩ := (Except.bind_ok_iff _ _ _).1 h
    obtain ⟨⟨bits, p3⟩, hbits, h⟩ := (Except.bind_ok_iff _ _ _).1 h
    obtain ⟨_, hnew, h⟩ := (Except.bind_ok_iff _ _ _).1 h
    have hentry : Spans s p p3 (codeEntryBytes (b, bits)) := by
      rw [codeEntryBytes, (rdBits_advances hbits).2]
      exact ((rdU8_spans hb).append (rdU32_spans hlen)).append (rdBits_spans (rdU32_spans hlen).le hbits)
    obtain ⟨l, rfl, hperm, hspan⟩ := ih hentry.le h
    have hget : mapGet c b = none := Option.isNone_iff_eq_none.1 ((require_ok_iff ..).1 hnew)
    have hset := (mapSet_perm (v := bits) (mapGet_eq_none_iff.1 hget)).append_left l
    exact ⟨(b, bits) :: l, rfl, (hset.trans List.perm_middle).symm.trans hperm, hentry.append hspan⟩

/-- Fewer bytes than an entry's fixed fields take (R97). -/
theorem tdesEntries_short {n : Nat} {s x : Bytes} {p : Nat} (c : CodeTable) (h : RestAt s p x) (hx : x.length < 5) :
    tdesEntries (n + 1) s p c = .error .truncatedStream := by
  cases x with
  | nil =>
    have hlen : s.length < p + 1 := by rw [h.length]; exact Nat.lt_succ_self p
    rw [tdesEntries, rdU8, rdUInt_short hlen]
    rfl
  | cons b x =>
    have hlen : s.length < p + 1 + 4 := by rw [h.length]; omega
    rw [tdesEntries, (rdU8_parses b).whole (y := x) h]
    show rdUInt 4 s (p + 1) >>= _ = _
    rw [rdUInt_short hlen]
    rfl

/-- What is left of the first entry's reading once its fixed fields are read (R97). -/
theorem tdesEntries_fields {n len : Nat} {b : Byte} {s r : Bytes} {p : Nat} (c : CodeTable) (hlen : len < 2 ^ 32)
    (h : RestAt s p ([b] ++ (u32 len ++ r))) :
    RestAt s (p + 5) r ∧ tdesEntries (n + 1) s p c = (do
      require (len != 0 && decide (len ≤ Config.maxCodeBits)) .malformed
      require (decide (2 * len ≤ r.length)) .truncatedStream
      let (bits, q) ← rdBits len s (p + 5)
      require (codeOf c b).isNone .malformed
      tdesEntries n s q (mapSet b bits c)) := by
  have hr : RestAt s (p + 5) r := h.tail.tail
  have hleft : s.length - (p + 5) = r.length := by rw [hr.length]; omega
  refine ⟨hr, ?_⟩
  rw [tdesEntries, (rdU8_parses b).whole h, ← hleft]
  show rdU32 s (p + [b].length) >>= _ = _
  rw [(rdU32_parses hlen).whole h.tail]
  rfl

/-! ### Tables (R97) -/

theorem CtWf.length_le {c : CodeTable} {l : List (Byte × Bits)} (hc : CtWf c) (hl : l.Perm c) :
    l.length ≤ Config.maxEntries := hl.length_eq ▸ hc.1.length_le

/-- TDES's entries, in any order, from an empty table. -/
theorem tdesEntries_parses_perm {c : CodeTable} {l : List (Byte × Bits)} (hc : CtWf c) (hl : l.Perm c) :
    Parses (fun s p => tdesEntries l.length s p []) (l.flatMap codeEntryBytes) c :=
  addEntries_of_perm hc.1 hl ▸ tdesEntries_parses (.of_perm hc hl) (keys_nodup_of_perm hc.1 hl)

/-- TDES reads a table's layout with its entries in any order (R97, R103). -/
theorem tdes_parses {c : CodeTable} {l : List (Byte × Bits)} (hc : CtWf c) (hl : l.Perm c) :
    Parses tdes (tableBytes l) c := by
  have hn := CtWf.length_le hc hl
  refine (rdU32_parses (hn.trans_lt (by decide))).bind ?_
  exact .check (decide_eq_true hn) (.room (length_flatMap_codeEntryBytes l) (tdesEntries_parses_perm hc hl))

/-- TDES reads nothing but a table's layout (R103). -/
theorem tdes_spans {s : Bytes} {p p' : Nat} {c : CodeTable} (h : tdes s p = .ok (c, p')) :
    ∃ l, l.Perm c ∧ Spans s p p' (tableBytes l) := by
  obtain ⟨⟨n, q⟩, hn, h⟩ := (Except.bind_ok_iff _ _ _).1 h
  obtain ⟨_, -, h⟩ := (Except.bind_ok_iff _ _ _).1 h
  obtain ⟨_, -, h⟩ := (Except.bind_ok_iff _ _ _).1 h
  obtain ⟨l, rfl, hperm, hspan⟩ := tdesEntries_spans (rdU32_spans hn).le h
  exact ⟨l, List.append_nil l ▸ hperm, (rdU32_spans hn).append hspan⟩

/-- What is left of TDES once entryCount is read (R97). -/
theorem tdes_count {s r : Bytes} {n p : Nat} (hn : n < 2 ^ 32) (h : RestAt s p (u32 n ++ r)) :
    RestAt s (p + 4) r ∧ tdes s p = (do
      require (decide (n ≤ Config.maxEntries)) .malformed
      require (decide (5 * n ≤ r.length)) .truncatedStream
      tdesEntries n s (p + 4) []) := by
  have hr : RestAt s (p + 4) r := h.tail
  have hleft : s.length - (p + 4) = r.length := by rw [hr.length]; omega
  refine ⟨hr, ?_⟩
  rw [tdes, (rdU32_parses hn).whole h, ← hleft]
  rfl

/-- TDES after some good entries goes on with the next one (R97). -/
theorem tdes_after {c : CodeTable} {l : List (Byte × Bits)} {n p : Nat} {s x : Bytes} (hc : CtWf c) (hl : l.Perm c)
    (hln : l.length < n) (hn : n ≤ Config.maxEntries) (h : RestAt s p (u32 n ++ (l.flatMap codeEntryBytes ++ x)))
    (hroom : 5 * n ≤ (l.flatMap codeEntryBytes ++ x).length) :
    ∃ m q, RestAt s q x ∧ tdes s p = tdesEntries (m + 1) s q c := by
  obtain ⟨hr, heq⟩ := tdes_count (hn.trans_lt (by decide)) h
  obtain ⟨m, rfl⟩ : ∃ m, n = l.length + (m + 1) := ⟨n - l.length - 1, by omega⟩
  refine ⟨m, _, hr.tail, ?_⟩
  rw [heq, decide_eq_true hn, decide_eq_true hroom, tdesEntries_add, (tdesEntries_parses_perm hc hl).whole hr]
  rfl

end Sys2Proof.Machine
end

section
/-! PROOFS. TDES as a command: how it ends, and each error of its checks (41_tree_codetable.md R97, R99). -/

namespace Sys2Proof.Machine

open Sys2Proof.Certificates

/-! ### How a primitive command ends (10_state.md R23; 60_exceptions.md R169) -/

theorem errCode_injective : Function.Injective errCode := by
  intro e e'
  cases e <;> cases e' <;> decide

/-- A command leaves the state of an error exactly where its registers could not be computed for that error. -/
theorem State.finish_eq_abort_iff {op : Byte} {r : Except Err State} {s : State} {e : Err} :
    s.finish op r = s.abort op e ↔ r = .error e := by
  constructor
  · intro h
    have herr := congrArg State.err h
    rw [State.err_abort] at herr
    rcases State.finish_cases op r s with ⟨t, -, ht⟩ | ⟨e', rfl, he⟩
    · have hrange := errCode_range e
      rw [ht, State.err_succeed] at herr
      rw [← herr] at hrange
      exact absurd hrange.1 (by decide)
    · rw [he, State.err_abort] at herr
      rw [errCode_injective herr]
  · rintro rfl
    rfl

theorem exec_eq_abort_iff {i : Instr} (hi : primitive i = true) {s : State} {e : Err} :
    exec i s = .next (s.abort (opcode i) e) ↔ regsOf i s = .error e := by
  rw [exec_primitive hi, Host.Outcome.next.injEq, State.finish_eq_abort_iff]

theorem exec_of_regs {i : Instr} (hi : primitive i = true) {s t : State} (h : regsOf i s = .ok t) :
    exec i s = .next (t.succeed (opcode i)) := by
  rw [exec_primitive hi, h]
  rfl

/-- A computation that goes on without a check fails where its first part does. -/
theorem bind_ok_eq_error_iff {α β : Type} {x : Except Err α} {g : α → β} {e : Err} :
    (x >>= fun a => .ok (g a)) = .error e ↔ x = .error e := by
  cases x with
  | ok a => exact ⟨nofun, nofun⟩
  | error e' => exact ⟨fun h => by cases h; rfl, fun h => by cases h; rfl⟩

/-! ### TDES -/

theorem exec_tdes_of_ok {s : State} {c : CodeTable} {p : Nat} (h : tdes s.din s.pos = .ok (c, p)) :
    exec .tdes s = .next (((s.setCt c).setPos p).succeed 0x06#8) :=
  exec_of_regs (i := .tdes) rfl (by rw [regsOf, tdesRegs, h]; rfl)

theorem exec_tdes_abort_iff {s : State} {e : Err} :
    exec .tdes s = .next (s.abort 0x06#8 e) ↔ tdes s.din s.pos = .error e :=
  (exec_eq_abort_iff (i := .tdes) rfl).trans bind_ok_eq_error_iff

/-- A table is at the cursor, or TDES answers one of its two errors (R83, R97). -/
theorem tdes_cases (s : Bytes) (p : Nat) :
    (∃ c l, CtWf c ∧ l.Perm c ∧ ∃ p', Spans s p p' (tableBytes l)) ∨
      tdes s p = .error .truncatedStream ∨ tdes s p = .error .malformed := by
  cases h : tdes s p with
  | ok r =>
    obtain ⟨l, hl, hspan⟩ := tdes_spans h
    exact .inl ⟨_, l, (tdes_wf h).1, hl, _, hspan⟩
  | error e => exact .inr (by simpa using tdes_raises s p e h)

/-- The checks on entryCount (R97, R98). -/
theorem tdes_count_errors {s r : Bytes} {n p : Nat} (hn : n < 2 ^ 32) (h : RestAt s p (u32 n ++ r)) :
    (256 < n → tdes s p = .error .malformed) ∧
      (n ≤ 256 → r.length < 5 * n → tdes s p = .error .truncatedStream) := by
  obtain ⟨-, heq⟩ := tdes_count hn h
  refine ⟨fun hmax => ?_, fun hmax hroom => ?_⟩
  · rw [heq, decide_eq_false (Nat.not_le_of_lt hmax)]
    rfl
  · rw [heq, decide_eq_true hmax, decide_eq_false (Nat.not_le_of_lt hroom)]
    rfl

/-- The checks on one entry's codeBitLength (R97, R98). -/
theorem tdesEntries_length_errors {n len p : Nat} {b : Byte} {s r : Bytes} (c : CodeTable) (hlen : len < 2 ^ 32)
    (h : RestAt s p ([b] ++ (u32 len ++ r))) :
    (len = 0 ∨ 255 < len → tdesEntries (n + 1) s p c = .error .malformed) ∧
      (1 ≤ len → len ≤ 255 → r.length < 2 * len → tdesEntries (n + 1) s p c = .error .truncatedStream) := by
  obtain ⟨-, heq⟩ := tdesEntries_fields (n := n) c hlen h
  refine ⟨fun hbad => ?_, fun h1 h255 hroom => ?_⟩
  · have hrange : (len != 0 && decide (len ≤ 255)) = false := by simp; omega
    rw [heq, hrange]
    rfl
  · have hrange : (len != 0 && decide (len ≤ 255)) = true := by simp; omega
    rw [heq, hrange, decide_eq_false (Nat.not_le_of_lt hroom)]
    rfl

/-- An entry whose codeBitLength is good goes on with its units (R97, R98). -/
theorem tdesEntries_units {n len p : Nat} {b : Byte} {s r : Bytes} (c : CodeTable) (h1 : 1 ≤ len) (h255 : len ≤ 255)
    (hroom : 2 * len ≤ r.length) (h : RestAt s p ([b] ++ (u32 len ++ r))) :
    RestAt s (p + 5) r ∧ tdesEntries (n + 1) s p c = (do
      let (bits, q) ← rdBits len s (p + 5)
      require (codeOf c b).isNone .malformed
      tdesEntries n s q (mapSet b bits c)) := by
  obtain ⟨hr, heq⟩ := tdesEntries_fields (n := n) c (h255.trans_lt (by decide)) h
  have hrange : (len != 0 && decide (len ≤ 255)) = true := by simp; omega
  refine ⟨hr, ?_⟩
  rw [heq, hrange, decide_eq_true hroom]
  rfl

theorem tdesEntries_badUnit {n len u p : Nat} {b : Byte} {bits : Bits} {s r : Bytes} (c : CodeTable) (h1 : 1 ≤ len)
    (h255 : len ≤ 255) (hroom : 2 * len ≤ (unitBytes bits ++ (u16 u ++ r)).length) (hbits : bits.length < len)
    (hu : u < 2 ^ 16) (hu0 : u ≠ 0x30) (hu1 : u ≠ 0x31)
    (h : RestAt s p ([b] ++ (u32 len ++ (unitBytes bits ++ (u16 u ++ r))))) :
    tdesEntries (n + 1) s p c = .error .malformed := by
  obtain ⟨hr, heq⟩ := tdesEntries_units (n := n) c h1 h255 hroom h
  rw [heq, rdBits_badUnit hbits hu hu0 hu1 hr]
  rfl

theorem tdesEntries_repeated {n p : Nat} {b : Byte} {bits : Bits} {s r : Bytes} {c : CodeTable} (h1 : 1 ≤ bits.length)
    (h255 : bits.length ≤ 255) (hb : (codeOf c b).isSome = true)
    (h : RestAt s p ([b] ++ (u32 bits.length ++ (unitBytes bits ++ r)))) :
    tdesEntries (n + 1) s p c = .error .malformed := by
  obtain ⟨hr, heq⟩ := tdesEntries_units (n := n) c h1 h255 (by simp) h
  have hold : (codeOf c b).isNone = false := by rw [← Option.not_isSome, hb]; rfl
  rw [heq, (rdBits_parses bits).whole hr, hold]
  rfl

end Sys2Proof.Machine
end

section
/-! PROOFS. The statement about TDES (41_tree_codetable.md R97, R99). -/

namespace Sys2Proof.Proofs

open Sys2Proof Sys2Proof.Machine Sys2Proof.Certificates

/-- Settles O12: TDES parses the table's layout in any order of its entries (`tdes_parses`, by induction on them), a table it
accepts was laid out so (`tdes_spans`), and each check is evaluated at the bytes where it stands. -/
theorem tdesReadsTable : Obligations.TdesReadsTable := by
  refine ⟨?_, fun s => ?_, fun s hs => ?_, ?_, ?_, ?_⟩
  · intro s c l pre r hc hl hdin hpos
    have h : RestAt s.din s.pos (tableBytes l ++ r) := ⟨pre, by rw [hdin, List.append_assoc], hpos.symm⟩
    exact hpos ▸ exec_tdes_of_ok ((tdes_parses hc hl).whole h)
  · rcases tdes_cases s.din s.pos with ⟨c, l, hc, hl, p', hspan⟩ | h | h
    · obtain ⟨pre, r, hsplit⟩ := hspan.split
      exact .inl ⟨c, l, pre, r, hc, hl, hsplit⟩
    · exact .inr (.inl (exec_tdes_abort_iff.2 h))
    · exact .inr (.inr (exec_tdes_abort_iff.2 h))
  · refine exec_tdes_abort_iff.2 ?_
    rw [tdes, rdU32, rdUInt_short hs]
    rfl
  · intro s n pre r hdin hpos hn
    have h : RestAt s.din s.pos (u32 n ++ r) := ⟨pre, by rw [hdin, List.append_assoc], hpos.symm⟩
    obtain ⟨hmax, hroom⟩ := tdes_count_errors hn h
    exact ⟨fun h => exec_tdes_abort_iff.2 (hmax h), fun h h' => exec_tdes_abort_iff.2 (hroom h h')⟩
  · intro s c l pre k hc hl hk hdin hpos
    exact exec_tdes_abort_iff.2 ((tdes_parses hc hl).cut hk ⟨pre, hdin, hpos.symm⟩)
  · intro s c l n pre x hc hl hln hn hdin hpos hroom
    have h : RestAt s.din s.pos (u32 n ++ (l.flatMap codeEntryBytes ++ x)) :=
      ⟨pre, by rw [hdin, List.append_assoc, List.append_assoc], hpos.symm⟩
    obtain ⟨m, q, hx, heq⟩ := tdes_after hc hl hln hn h hroom
    have hend : ∀ {e}, tdesEntries (m + 1) s.din q c = .error e → exec .tdes s = .next (s.abort 0x06#8 e) :=
      fun he => exec_tdes_abort_iff.2 (heq.trans he)
    refine ⟨fun h5 => hend (tdesEntries_short c hx h5), ?_⟩
    rintro b len r rfl hlen
    rw [List.append_assoc] at hx
    obtain ⟨hbad, hshort⟩ := tdesEntries_length_errors (n := m) c hlen hx
    refine ⟨fun h => hend (hbad h), fun h1 h255 h => hend (hshort h1 h255 h), ?_, ?_⟩
    · rintro bits u r' h1 h255 hunits hbits hu hu0 hu1 rfl
      rw [List.append_assoc] at hx hunits
      exact hend (tdesEntries_badUnit c h1 h255 hunits hbits hu hu0 hu1 hx)
    · rintro bits r' h1 h255 rfl rfl hb
      exact hend (tdesEntries_repeated h1 h255 hb hx)

end Sys2Proof.Proofs
end

section
/-! PROOFS. PRD on the layout of a payload frame, and each of its errors (43_filecodec.md R118, R119). -/

namespace Sys2Proof.Machine

open Sys2Proof.Certificates

/-- PRD reads a frame's layout with its table entries in any order (R118, R122). -/
theorem frameRead_parses {f : Frame} {l : List (Byte × Bits)} (hf : FrameWf f) (hl : l.Perm f.table) :
    Parses frameRead (frameBytesWith l f.eff f.packed) f := by
  obtain ⟨hct, heff, hlen⟩ := hf
  rw [frameBytesWith, List.append_assoc, List.append_assoc]
  refine (rdU32_parses (hlen.trans_lt (by decide))).bind (.check (decide_eq_true hlen) ?_)
  refine (rdU8_parses f.eff).bind (.check heff ?_)
  exact (tdes_parses hct hl).bind (rdBytes_parses rfl).map

/-- PRD reads nothing but a frame's layout (R118). -/
theorem frameRead_spans {s : Bytes} {p p' : Nat} {f : Frame} (h : frameRead s p = .ok (f, p')) :
    FrameWf f ∧ ∃ l, l.Perm f.table ∧ Spans s p p' (frameBytesWith l f.eff f.packed) := by
  obtain ⟨hct, heff, -, -⟩ := frameRead_wf h
  obtain ⟨⟨len, p1⟩, hlen, h⟩ := (Except.bind_ok_iff _ _ _).1 h
  obtain ⟨_, hmax, h⟩ := (Except.bind_ok_iff _ _ _).1 h
  obtain ⟨⟨e, p2⟩, he, h⟩ := (Except.bind_ok_iff _ _ _).1 h
  obtain ⟨_, -, h⟩ := (Except.bind_ok_iff _ _ _).1 h
  obtain ⟨⟨c, p3⟩, hc, h⟩ := (Except.bind_ok_iff _ _ _).1 h
  obtain ⟨⟨pk, p4⟩, hpk, h⟩ := (Except.bind_ok_iff _ _ _).1 h
  cases h
  obtain ⟨l, hl, htable⟩ := tdes_spans hc
  obtain ⟨hpacked, rfl⟩ := rdBytes_spans hpk
  exact ⟨⟨hct, heff, of_decide_eq_true ((require_ok_iff ..).1 hmax)⟩, l, hl,
    (((rdU32_spans hlen).append (rdU8_spans he)).append htable).append hpacked⟩

/-- A frame is at the cursor, or PRD answers one of its two errors (R83, R118). -/
theorem frameRead_cases (s : Bytes) (p : Nat) :
    (∃ f l, FrameWf f ∧ l.Perm f.table ∧ ∃ p', Spans s p p' (frameBytesWith l f.eff f.packed)) ∨
      frameRead s p = .error .truncatedStream ∨ frameRead s p = .error .malformed := by
  cases h : frameRead s p with
  | ok r =>
    obtain ⟨hf, l, hl, hspan⟩ := frameRead_spans h
    exact .inl ⟨_, l, hf, hl, _, hspan⟩
  | error e => exact .inr (by simpa using frameRead_raises s p e h)

theorem frameRead_longPayload {s r : Bytes} {p len : Nat} (hmax : Config.maxField < len) (hlen : len < 2 ^ 32)
    (h : RestAt s p (u32 len ++ r)) : frameRead s p = .error .malformed := by
  rw [frameRead, (rdU32_parses hlen).whole h]
  show require (decide (len ≤ Config.maxField)) .malformed >>= _ = _
  rw [decide_eq_false (Nat.not_le_of_lt hmax)]
  rfl

/-- What is left of PRD once payloadLength and the EFF byte are read (R118). -/
theorem frameRead_fields {s r : Bytes} {p len : Nat} {e : Byte} (hmax : len ≤ Config.maxField)
    (h : RestAt s p (u32 len ++ ([e] ++ r))) :
    frameRead s p = (do
      require (validEff e) .malformed
      let (c, q) ← tdes s (p + 5)
      let (pk, q) ← rdBytes len s q
      .ok (⟨c, e, pk⟩, q)) := by
  rw [frameRead, (rdU32_parses (hmax.trans_lt (by decide))).whole h]
  show (do
    require (decide (len ≤ Config.maxField)) .malformed
    rdU8 s (p + (u32 len).length) >>= _) = _
  rw [decide_eq_true hmax, (rdU8_parses e).whole h.tail]
  rfl

theorem frameRead_badEff {s r : Bytes} {p len : Nat} {e : Byte} (hmax : len ≤ Config.maxField) (he : validEff e = false)
    (h : RestAt s p (u32 len ++ ([e] ++ r))) : frameRead s p = .error .malformed := by
  rw [frameRead_fields hmax h, he]
  rfl

theorem frameRead_badTable {s r : Bytes} {p len : Nat} {e : Byte} {err : Err} (hmax : len ≤ Config.maxField)
    (he : validEff e = true) (h : RestAt s p (u32 len ++ ([e] ++ r))) (ht : tdes s (p + 5) = .error err) :
    frameRead s p = .error err := by
  rw [frameRead_fields hmax h, he, ht]
  rfl

theorem exec_prd_of_ok {s : State} {f : Frame} {p : Nat} (h : frameRead s.din s.pos = .ok (f, p)) :
    exec .prd s = .next (((((s.setCt f.table).setEff f.eff).setPk f.packed).setPos p).succeed 0x0C#8) :=
  exec_of_regs (i := .prd) rfl (by rw [regsOf, prdRegs, h]; rfl)

theorem exec_prd_abort_iff {s : State} {e : Err} :
    exec .prd s = .next (s.abort 0x0C#8 e) ↔ frameRead s.din s.pos = .error e :=
  (exec_eq_abort_iff (i := .prd) rfl).trans bind_ok_eq_error_iff

end Sys2Proof.Machine
end

section
/-! PROOFS. The statement about PRD (43_filecodec.md R118, R119). -/

namespace Sys2Proof.Proofs

open Sys2Proof Sys2Proof.Machine Sys2Proof.Certificates

/-- Settles O25: PRD parses the frame's layout (`frameRead_parses`), a frame it accepts was laid out so (`frameRead_spans`),
and each check is evaluated at the bytes where it stands. -/
theorem prdReadsFrame : Obligations.PrdReadsFrame := by
  refine ⟨?_, fun s => ?_, ?_, ?_, ?_, ?_⟩
  · intro s f l pre r hf hl hdin hpos
    have h : RestAt s.din s.pos (frameBytesWith l f.eff f.packed ++ r) :=
      ⟨pre, by rw [hdin, List.append_assoc], hpos.symm⟩
    exact hpos ▸ exec_prd_of_ok ((frameRead_parses hf hl).whole h)
  · rcases frameRead_cases s.din s.pos with ⟨f, l, hf, hl, p', hspan⟩ | h | h
    · obtain ⟨pre, r, hsplit⟩ := hspan.split
      exact .inl ⟨f, l, pre, r, hf, hl, hsplit⟩
    · exact .inr (.inl (exec_prd_abort_iff.2 h))
    · exact .inr (.inr (exec_prd_abort_iff.2 h))
  · intro s len pre r hmax hlen hdin hpos
    exact exec_prd_abort_iff.2
      (frameRead_longPayload hmax hlen ⟨pre, by rw [hdin, List.append_assoc], hpos.symm⟩)
  · intro s len e pre r hmax he hdin hpos
    exact exec_prd_abort_iff.2
      (frameRead_badEff hmax he ⟨pre, by rw [hdin, List.append_assoc, List.append_assoc], hpos.symm⟩)
  · intro s len e pre r err hmax he hdin hpos ht
    have ht : tdes s.din (pre.length + 5) = .error err := exec_tdes_abort_iff.1 ht
    exact exec_prd_abort_iff.2
      (frameRead_badTable hmax he ⟨pre, by rw [hdin, List.append_assoc, List.append_assoc], hpos.symm⟩ (hpos ▸ ht))
  · intro s f l pre k hf hl hk hdin hpos
    exact exec_prd_abort_iff.2 ((frameRead_parses hf hl).cut hk ⟨pre, hdin, hpos.symm⟩)

end Sys2Proof.Proofs
end

section
/-! PROOFS. ERD on the layout of an entry, and each of its errors (44_container.md R128, R129). -/

namespace Sys2Proof.Machine

open Sys2Proof.Certificates

/-! ### An entry that is there (R128) -/

/-- What ERD reads after the tag. -/
def afterTag (tag s : Bytes) (p : Nat) : Except Err (Entry Frame × Nat) :=
  if tag = tagDir then do
    let (path, p) ← rdStr s p
    .ok (.dir path, p)
  else if tag = tagFile then do
    let (path, p) ← rdStr s p
    let (f, p) ← frameRead s p
    .ok (.file path f, p)
  else .error .malformed

/-- What ERD reads where DIN has not ended. -/
def rdTagged (s : Bytes) (p : Nat) : Except Err (Entry Frame × Nat) := do
  let (tag, p) ← rdStr s p
  afterTag tag s p

theorem entryRead_end (s : Bytes) : entryRead s s.length = .ok (.stop, s.length) := if_pos rfl

theorem entryRead_of_ne {s : Bytes} {p : Nat} (h : p ≠ s.length) : entryRead s p = rdTagged s p := if_neg h

/-- Bytes at the cursor make the cursor differ from DIN's end. -/
theorem entryRead_of_bytes {s z : Bytes} {p : Nat} (h : RestAt s p z) (hz : 0 < z.length) :
    entryRead s p = rdTagged s p :=
  entryRead_of_ne (by rw [h.length]; omega)

theorem afterTag_dir_parses {q : Bytes} (hq : q.length ≤ Config.maxStr) :
    Parses (afterTag tagDir) (strBytes q) (.dir q) := (rdStr_parses hq).map

theorem afterTag_file_parses {q : Bytes} {f : Frame} {l : List (Byte × Bits)} (hq : q.length ≤ Config.maxStr)
    (hf : FrameWf f) (hl : l.Perm f.table) :
    Parses (afterTag tagFile) (strBytes q ++ frameBytesWith l f.eff f.packed) (.file q f) :=
  (rdStr_parses hq).bind (frameRead_parses hf hl).map

theorem rdTagged_dir_parses {q : Bytes} (hq : q.length ≤ Config.maxStr) : Parses rdTagged (dirBytes q) (.dir q) :=
  (rdStr_parses (b := tagDir) (by decide)).bind (afterTag_dir_parses hq)

/-- The bytes of a file entry with its table's entries in the order given (30_encoding.md R81). -/
def fileBytesWith (q : Bytes) (l : List (Byte × Bits)) (e : Byte) (pk : Bytes) : Bytes :=
  [0x00#8, 0x02#8, 0x46#8, 0x49#8] ++ strBytes q ++ frameBytesWith l e pk

theorem rdTagged_file_parses {q : Bytes} {f : Frame} {l : List (Byte × Bits)} (hq : q.length ≤ Config.maxStr)
    (hf : FrameWf f) (hl : l.Perm f.table) : Parses rdTagged (fileBytesWith q l f.eff f.packed) (.file q f) := by
  rw [fileBytesWith, List.append_assoc]
  exact (rdStr_parses (b := tagFile) (by decide)).bind (afterTag_file_parses hq hf hl)

theorem fileBytesWith_length (q : Bytes) (l : List (Byte × Bits)) (e : Byte) (pk : Bytes) :
    (fileBytesWith q l e pk).length = 6 + q.length + (frameBytesWith l e pk).length := by
  simp [fileBytesWith, strBytes_length]
  omega

/-- An entry that ERD reads and that is no end is laid out at the cursor (R128). -/
def EntrySpans (s : Bytes) (p p' : Nat) : Entry Frame → Prop
  | .stop => p = s.length
  | .dir q => q.length ≤ Config.maxStr ∧ Spans s p p' (dirBytes q)
  | .file q f => q.length ≤ Config.maxStr ∧ FrameWf f ∧
    ∃ l, l.Perm f.table ∧ Spans s p p' (fileBytesWith q l f.eff f.packed)

theorem entryRead_spans {s : Bytes} {p p' : Nat} {e : Entry Frame} (h : entryRead s p = .ok (e, p')) :
    EntrySpans s p p' e := by
  by_cases hp : p = s.length
  · subst hp
    rw [entryRead_end] at h
    cases h
    rfl
  · rw [entryRead_of_ne hp] at h
    obtain ⟨⟨tag, p1⟩, htag, h⟩ := (Except.bind_ok_iff _ _ _).1 h
    have htag := rdStr_spans htag
    simp only [afterTag] at h
    split at h
    · next hdir =>
      subst hdir
      obtain ⟨⟨q, p2⟩, hq, h⟩ := (Except.bind_ok_iff _ _ _).1 h
      cases h
      exact ⟨(rdStr_le hq).1, htag.append (rdStr_spans hq)⟩
    · split at h
      · next hfile =>
        subst hfile
        obtain ⟨⟨q, p2⟩, hq, h⟩ := (Except.bind_ok_iff _ _ _).1 h
        obtain ⟨⟨f, p3⟩, hf, h⟩ := (Except.bind_ok_iff _ _ _).1 h
        cases h
        obtain ⟨hwf, l, hl, hspan⟩ := frameRead_spans hf
        exact ⟨(rdStr_le hq).1, hwf, l, hl, (htag.append (rdStr_spans hq)).append hspan⟩
      · cases h

/-! ### The errors of an entry (R83, R128) -/

theorem entryRead_pastEnd {s : Bytes} {p : Nat} (h : s.length < p) : entryRead s p = .error .truncatedStream := by
  rw [entryRead_of_ne (Nat.ne_of_gt h), rdTagged, rdStr, rdU16, rdUInt_short (by omega)]
  rfl

/-- An entry cut short after its first byte. -/
theorem entryRead_cut {s x : Bytes} {p k : Nat} {e : Entry Frame} (hx : Parses rdTagged x e) (h0 : 0 < k)
    (hk : k < x.length) (h : RestAt s p (x.take k)) : entryRead s p = .error .truncatedStream :=
  (entryRead_of_bytes h (by rwa [List.length_take_of_le hk.le])).trans (hx.cut hk h)

theorem entryRead_whole {s x y : Bytes} {p : Nat} {e : Entry Frame} (hx : Parses rdTagged x e) (h0 : 0 < x.length)
    (h : RestAt s p (x ++ y)) : entryRead s p = .ok (e, p + x.length) :=
  (entryRead_of_bytes h (by rw [List.length_append]; omega)).trans (hx.whole h)

/-- ERD past a tag. -/
theorem entryRead_tag {s tag r : Bytes} {p : Nat} (htag : tag.length ≤ Config.maxStr)
    (h : RestAt s p (strBytes tag ++ r)) : entryRead s p = afterTag tag s (p + (strBytes tag).length) := by
  have hpos : 0 < (strBytes tag ++ r).length := by rw [List.length_append, strBytes_length]; omega
  rw [entryRead_of_bytes h hpos, rdTagged, (rdStr_parses htag).whole h]
  rfl

theorem entryRead_unknownTag {s tag r : Bytes} {p : Nat} (htag : tag.length ≤ Config.maxStr) (hdir : tag ≠ tagDir)
    (hfile : tag ≠ tagFile) (h : RestAt s p (strBytes tag ++ r)) : entryRead s p = .error .malformed := by
  rw [entryRead_tag htag h, afterTag, if_neg hdir, if_neg hfile]

theorem pathEnd (p : Nat) (q : Bytes) : p + 4 + (strBytes q).length = p + 6 + q.length := by
  rw [strBytes_length]
  omega

/-- The frame of a file entry stands after its tag and its path (30_encoding.md R81). -/
theorem RestAt.frame {s q r : Bytes} {p : Nat}
    (h : RestAt s p ([0x00#8, 0x02#8, 0x46#8, 0x49#8] ++ (strBytes q ++ r))) : RestAt s (p + 6 + q.length) r :=
  pathEnd p q ▸ h.tail.tail

/-- A file entry whose frame PRD does not read raises what PRD raises (R128). -/
theorem entryRead_badFrame {s q r : Bytes} {p : Nat} {err : Err} (hq : q.length ≤ Config.maxStr)
    (h : RestAt s p ([0x00#8, 0x02#8, 0x46#8, 0x49#8] ++ (strBytes q ++ r)))
    (hf : frameRead s (p + 6 + q.length) = .error err) : entryRead s p = .error err := by
  have hpath : rdStr s (p + (strBytes tagFile).length) = .ok (q, p + 6 + q.length) :=
    pathEnd p q ▸ (rdStr_parses hq).whole h.tail
  rw [entryRead_tag (tag := tagFile) (by decide) h]
  show (rdStr s _ >>= _) = _
  rw [hpath]
  show (frameRead s _ >>= _) = _
  rw [hf]
  rfl

/-- An entry is at the cursor or DIN has ended, or ERD answers one of its two errors (R83, R128). -/
theorem entryRead_cases (s : Bytes) (p : Nat) :
    (∃ e p', EntrySpans s p p' e) ∨
      entryRead s p = .error .truncatedStream ∨ entryRead s p = .error .malformed := by
  cases h : entryRead s p with
  | ok r => exact .inl ⟨_, _, entryRead_spans h⟩
  | error e => exact .inr (by simpa using entryRead_raises s p e h)

/-! ### ERD -/

theorem erdRegs_eq (s : State) : erdRegs s = (entryRead s.din s.pos >>= fun r => .ok (s.withEntry r.2 r.1)) := by
  unfold erdRegs
  rcases entryRead s.din s.pos with e | ⟨e, p⟩
  · rfl
  · cases e <;> rfl

theorem exec_erd_of_ok {s : State} {e : Entry Frame} {p : Nat} (h : entryRead s.din s.pos = .ok (e, p)) :
    exec .erd s = .next ((s.withEntry p e).succeed 0x0F#8) :=
  exec_of_regs (i := .erd) rfl (by rw [regsOf, erdRegs_eq, h]; rfl)

theorem exec_erd_abort_iff {s : State} {e : Err} :
    exec .erd s = .next (s.abort 0x0F#8 e) ↔ entryRead s.din s.pos = .error e := by
  rw [← bind_ok_eq_error_iff (g := fun r => s.withEntry r.2 r.1), ← erdRegs_eq]
  exact exec_eq_abort_iff (i := .erd) rfl

end Sys2Proof.Machine
end

section
/-! PROOFS. The statement about ERD (44_container.md R128, R129). -/

namespace Sys2Proof.Proofs

open Sys2Proof Sys2Proof.Machine Sys2Proof.Certificates

/-- Settles O29: ERD parses the layouts of both kinds of entry (`rdTagged_dir_parses`, `rdTagged_file_parses`), an entry it
accepts was laid out so (`entryRead_spans`), and a file entry's frame fails as it does for PRD (`entryRead_badFrame`). -/
theorem erdReadsEntry : Obligations.ErdReadsEntry := by
  intro s
  have hfail : ∀ {e}, entryRead s.din s.pos = .error e → exec .erd s = .next (s.abort 0x0F#8 e) :=
    exec_erd_abort_iff.2
  refine ⟨?_, ?_, ?_, ?_, ?_, ?_, ?_, ?_, ?_, ?_, ?_⟩
  · intro hpos
    exact exec_erd_of_ok (p := s.din.length) (by rw [hpos, entryRead_end])
  · intro hpos
    exact hfail (entryRead_pastEnd hpos)
  · intro q pre r hq hdin hpos
    have h : RestAt s.din s.pos (dirBytes q ++ r) := ⟨pre, by rw [hdin, List.append_assoc], hpos.symm⟩
    exact hpos ▸ exec_erd_of_ok (entryRead_whole (rdTagged_dir_parses hq) (by rw [dirBytes_length]; omega) h)
  · intro q f l pre r hq hf hl hdin hpos
    have h : RestAt s.din s.pos (fileBytesWith q l f.eff f.packed ++ r) :=
      ⟨pre, by simp only [hdin, fileBytesWith, List.append_assoc], hpos.symm⟩
    have hread := entryRead_whole (rdTagged_file_parses hq hf hl) (by rw [fileBytesWith_length]; omega) h
    have hend : s.pos + (fileBytesWith q l f.eff f.packed).length =
        pre.length + 6 + q.length + (frameBytesWith l f.eff f.packed).length := by
      rw [fileBytesWith_length, hpos]
      omega
    rw [hend] at hread
    exact exec_erd_of_ok hread
  · intro tag pre r htag hdir hfile hdin hpos
    exact hfail (entryRead_unknownTag htag hdir hfile ⟨pre, by rw [hdin, List.append_assoc], hpos.symm⟩)
  · intro q pre k hq h0 hk hdin hpos
    exact hfail (entryRead_cut (rdTagged_dir_parses hq) h0 hk ⟨pre, hdin, hpos.symm⟩)
  · intro q f pre k hq hf h0 hk hdin hpos
    exact hfail (entryRead_cut (rdTagged_file_parses hq hf (.refl _)) h0 hk ⟨pre, hdin, hpos.symm⟩)
  · intro q pre r len hq hmax hlen hdin hpos
    have h : RestAt s.din s.pos ([0x00#8, 0x02#8, 0x46#8, 0x49#8] ++ (strBytes q ++ (u32 len ++ r))) :=
      ⟨pre, by simp only [hdin, List.append_assoc], hpos.symm⟩
    exact hfail (entryRead_badFrame hq h (frameRead_longPayload hmax hlen h.frame))
  · intro q pre r len e hq hmax he hdin hpos
    have h : RestAt s.din s.pos ([0x00#8, 0x02#8, 0x46#8, 0x49#8] ++ (strBytes q ++ (u32 len ++ ([e] ++ r)))) :=
      ⟨pre, by simp only [hdin, List.append_assoc], hpos.symm⟩
    exact hfail (entryRead_badFrame hq h (frameRead_badEff hmax he h.frame))
  · intro q pre r err hq hdin hpos hprd
    have hprd : frameRead s.din (pre.length + 6 + q.length) = .error err := exec_prd_abort_iff.1 hprd
    have h : RestAt s.din s.pos ([0x00#8, 0x02#8, 0x46#8, 0x49#8] ++ (strBytes q ++ r)) :=
      ⟨pre, by simp only [hdin, List.append_assoc], hpos.symm⟩
    exact hfail (entryRead_badFrame hq h (hpos ▸ hprd))
  · rcases entryRead_cases s.din s.pos with ⟨e, p', hspan⟩ | h | h
    · cases e with
      | stop => exact .inl hspan
      | dir q =>
        obtain ⟨hq, hspan⟩ := hspan
        obtain ⟨pre, r, hsplit⟩ := hspan.split
        exact .inr (.inl ⟨q, pre, r, hq, hsplit⟩)
      | file q f =>
        obtain ⟨hq, hf, l, hl, hspan⟩ := hspan
        obtain ⟨pre, r, hdin, hpos⟩ := hspan.split
        exact .inr (.inr (.inl ⟨q, f, l, pre, r, hq, hf, hl, by simp only [hdin, fileBytesWith, List.append_assoc], hpos⟩))
    · exact .inr (.inr (.inr (.inl (hfail h))))
    · exact .inr (.inr (.inr (.inr (hfail h))))

end Sys2Proof.Proofs
end

section
/-! PROOFS. The tables FT and CT as lists (10_state.md R20, R29): FREQ's counts, the bytes that have an entry, and the length of
a serialized table (41_tree_codetable.md R86, R95). -/

namespace Sys2Proof.Machine

open Sys2Proof.Certificates

/-! ### Counts (R86) -/

theorem countOf_bump (f : FreqTable) (b c : Byte) : countOf (bump f b) c = countOf f c + if b = c then 1 else 0 := by
  rw [countOf, bump, mapGet_mapSet]
  by_cases h : b = c
  · simp [h]
  · simp [h, countOf]

theorem countOf_foldl_bump (d : Bytes) (f : FreqTable) (c : Byte) :
    countOf (d.foldl bump f) c = countOf f c + d.count c := by
  induction d generalizing f with
  | nil => rfl
  | cons b d ih =>
    rw [List.foldl_cons, ih, countOf_bump, List.count_cons, Nat.add_assoc, Nat.add_comm (d.count c)]
    simp only [beq_iff_eq]

theorem countOf_freqOf (d : Bytes) (b : Byte) : countOf (freqOf d) b = d.count b :=
  (countOf_foldl_bump d [] b).trans (Nat.zero_add _)

/-! ### The entries a map lists (R29) -/

theorem mem_keys_iff {α : Type} {m : List (Byte × α)} {b : Byte} : b ∈ m.map Prod.fst ↔ (mapGet m b).isSome = true := by
  rw [Option.isSome_iff_ne_none, ne_eq, mapGet_eq_none_iff]
  simp

theorem Ascending.mapGet_of_mem {α : Type} {m : List (Byte × α)} {e : Byte × α} (hm : Ascending m) (he : e ∈ m) :
    mapGet m e.1 = some e.2 := by
  induction m with
  | nil => cases he
  | cons x m ih =>
    obtain ⟨hx, hm⟩ := List.pairwise_cons.1 hm
    rcases List.mem_cons.1 he with rfl | he
    · simp [mapGet]
    · have hne : x.1 ≠ e.1 := fun h => Nat.ne_of_lt (hx e he) (congrArg BitVec.toNat h)
      rw [mapGet, if_neg hne, ih hm he]

theorem countOf_of_mem {f : FreqTable} {e : Byte × Nat} (hf : FtWf f) (he : e ∈ f) : countOf f e.1 = e.2 := by
  rw [countOf, hf.1.mapGet_of_mem he, Option.getD_some]

theorem countOf_pos_iff {f : FreqTable} {b : Byte} (hf : FtWf f) : 0 < countOf f b ↔ b ∈ f.map Prod.fst := by
  constructor
  · intro h
    cases hb : mapGet f b with
    | none => simp [countOf, hb] at h
    | some n => exact mem_keys_iff.2 (by rw [hb]; rfl)
  · intro h
    obtain ⟨e, he, rfl⟩ := List.mem_map.1 h
    rw [countOf_of_mem hf he]
    exact (hf.2 e he).1

/-! ### The length of a serialized table (R95) -/

theorem tableBytes_length (l : List (Byte × Bits)) :
    (tableBytes l).length = 4 + (l.map (fun e => 5 + 2 * e.2.length)).sum := by
  simp [tableBytes, List.length_flatMap]

end Sys2Proof.Machine
end

section
/-! PROOFS. The leaves of a tree with their paths: the codes CODES makes of them, and a tree as its leaves
(41_tree_codetable.md R91, R100). -/

namespace Sys2Proof.Machine

open Sys2Proof.Certificates

/-! ### Leaf paths -/

/-- A path from the root is the way to the node and the path from there. -/
theorem leafPaths_eq_map (t : Tree) (p : Bits) :
    leafPaths t p = (leafPaths t []).map (fun e => (e.1, p ++ e.2)) := by
  induction t generalizing p with
  | absent => rfl
  | leaf b => simp [leafPaths]
  | inner l r ihl ihr =>
    simp only [leafPaths, List.nil_append, List.map_append]
    rw [ihl (p ++ [false]), ihl [false], ihr (p ++ [true]), ihr [true]]
    simp [Function.comp_def]

theorem leafPaths_inner (l r : Tree) :
    leafPaths (.inner l r) [] =
      (leafPaths l []).map (fun e => (e.1, false :: e.2)) ++ (leafPaths r []).map (fun e => (e.1, true :: e.2)) := by
  rw [leafPaths, List.nil_append, List.nil_append, leafPaths_eq_map l, leafPaths_eq_map r]
  rfl

theorem nil_notMem_leafPaths_inner {l r : Tree} {b : Byte} : (b, []) ∉ leafPaths (.inner l r) [] := by
  simp [leafPaths_inner]

@[simp] theorem mem_leafPaths_inner_false {l r : Tree} {b : Byte} {q : Bits} :
    (b, false :: q) ∈ leafPaths (.inner l r) [] ↔ (b, q) ∈ leafPaths l [] := by
  simp [leafPaths_inner]

@[simp] theorem mem_leafPaths_inner_true {l r : Tree} {b : Byte} {q : Bits} :
    (b, true :: q) ∈ leafPaths (.inner l r) [] ↔ (b, q) ∈ leafPaths r [] := by
  simp [leafPaths_inner]

theorem map_fst_leafPaths (t : Tree) (p : Bits) : (leafPaths t p).map Prod.fst = t.symbols := by
  induction t generalizing p with
  | absent | leaf b => rfl
  | inner l r ihl ihr => rw [leafPaths, List.map_append, ihl, ihr, Tree.symbols]

/-- No leaf is deeper than the tree is high. -/
theorem length_le_height {t : Tree} {e : Byte × Bits} (he : e ∈ leafPaths t []) : e.2.length ≤ t.height := by
  induction t generalizing e with
  | absent => cases he
  | leaf b => cases List.mem_singleton.1 he; exact Nat.le_refl 0
  | inner l r ihl ihr =>
    obtain ⟨b, q⟩ := e
    match q with
    | [] => exact Nat.zero_le _
    | false :: q =>
      have := ihl (mem_leafPaths_inner_false.1 he)
      simp only [Tree.height, List.length_cons] at this ⊢
      omega
    | true :: q =>
      have := ihr (mem_leafPaths_inner_true.1 he)
      simp only [Tree.height, List.length_cons] at this ⊢
      omega

theorem prefixFree_of_perm {l l' : List (Byte × Bits)} (h : l.Perm l') (hl : PrefixFree l) : PrefixFree l' :=
  (h.pairwise_iff fun hab => hab.symm).1 hl

theorem prefixFree_map_cons {l : List (Byte × Bits)} (x : Bool) (hl : PrefixFree l) :
    PrefixFree (l.map (fun e => (e.1, x :: e.2))) :=
  List.pairwise_map.2 (hl.imp fun hab => by simpa using hab)

/-- The paths to different leaves part at some node (R100). -/
theorem leafPaths_prefixFree (t : Tree) : PrefixFree (leafPaths t []) := by
  induction t with
  | absent => exact .nil
  | leaf b => exact List.pairwise_singleton _ _
  | inner l r ihl ihr =>
    rw [leafPaths_inner]
    refine List.pairwise_append.2 ⟨prefixFree_map_cons false ihl, prefixFree_map_cons true ihr, fun x hx y hy => ?_⟩
    obtain ⟨e, -, rfl⟩ := List.mem_map.1 hx
    obtain ⟨e', -, rfl⟩ := List.mem_map.1 hy
    simp

/-! ### A tree without hollow nodes is determined by its leaves -/

theorem Tree.noHollow_children {l r : Tree} (h : (Tree.inner l r).noHollow = true) :
    (l ≠ .absent ∨ r ≠ .absent) ∧ l.noHollow = true ∧ r.noHollow = true := by
  simp only [Tree.noHollow, Bool.and_eq_true, Bool.not_eq_true', Bool.and_eq_false_iff, beq_eq_false_iff_ne] at h
  exact ⟨h.1.1, h.1.2, h.2⟩

/-- Below every node that is there, a leaf is. -/
theorem exists_mem_leafPaths {t : Tree} (ht : t.noHollow = true) (hne : t ≠ .absent) :
    ∃ b q, (b, q) ∈ leafPaths t [] := by
  induction t with
  | absent => exact absurd rfl hne
  | leaf b => exact ⟨b, [], List.mem_cons_self⟩
  | inner l r ihl ihr =>
    obtain ⟨hchild, hl, hr⟩ := Tree.noHollow_children ht
    rcases hchild with hne | hne
    · obtain ⟨b, q, hq⟩ := ihl hl hne
      exact ⟨b, false :: q, mem_leafPaths_inner_false.2 hq⟩
    · obtain ⟨b, q, hq⟩ := ihr hr hne
      exact ⟨b, true :: q, mem_leafPaths_inner_true.2 hq⟩

theorem eq_absent_of_leafPaths {t : Tree} (ht : t.noHollow = true) (h : ∀ b q, (b, q) ∉ leafPaths t []) : t = .absent := by
  by_contra hne
  obtain ⟨b, q, hq⟩ := exists_mem_leafPaths ht hne
  exact h b q hq

theorem eq_of_mem_leafPaths_iff {t t' : Tree} (ht : t.noHollow = true) (ht' : t'.noHollow = true)
    (h : ∀ b q, (b, q) ∈ leafPaths t [] ↔ (b, q) ∈ leafPaths t' []) : t = t' := by
  induction t generalizing t' with
  | absent => exact (eq_absent_of_leafPaths ht' fun b q hq => nomatch (h b q).2 hq).symm
  | leaf b =>
    have hb : (b, []) ∈ leafPaths t' [] := (h b []).1 List.mem_cons_self
    cases t' with
    | absent => cases hb
    | leaf b' => cases List.mem_singleton.1 hb; rfl
    | inner l r => exact absurd hb nil_notMem_leafPaths_inner
  | inner l r ihl ihr =>
    obtain ⟨-, hl, hr⟩ := Tree.noHollow_children ht
    cases t' with
    | absent => exact eq_absent_of_leafPaths ht fun b q hq => nomatch (h b q).1 hq
    | leaf b => exact absurd ((h b []).2 List.mem_cons_self) nil_notMem_leafPaths_inner
    | inner l' r' =>
      obtain ⟨-, hl', hr'⟩ := Tree.noHollow_children ht'
      rw [ihl hl hl' fun b q => by simpa using h b (false :: q), ihr hr hr' fun b q => by simpa using h b (true :: q)]

/-! ### CODES (R91) -/

/-- The visit of a tree sets the codes of its leaves, left to right. -/
theorem visit_eq_addEntries (t : Tree) (p : Bits) (c : CodeTable) : visit t p c = addEntries (leafPaths t p) c := by
  induction t generalizing p c with
  | absent | leaf b => rfl
  | inner l r ihl ihr => rw [visit, ihl, ihr, leafPaths, addEntries, addEntries, addEntries, List.foldl_append]

theorem codesOf_eq {t : Tree} (ht : t.isLeaf = false) : codesOf t = .ok (addEntries (leafPaths t []) []) := by
  cases t with
  | absent => rfl
  | leaf b => cases ht
  | inner l r => rw [codesOf, visit_eq_addEntries]

theorem codesOf_leaf {t : Tree} (ht : t.isLeaf = true) : codesOf t = .error .malformed := by
  cases t with
  | absent | inner l r => cases ht
  | leaf b => rfl

/-- Of entries set one after another, the last one of a byte stands. -/
theorem codeOf_addEntries (l : List (Byte × Bits)) (b : Byte) :
    codeOf (addEntries l []) b = ((l.filter (fun e => e.1 == b)).getLast?).map Prod.snd := by
  induction l using List.reverseRecOn with
  | nil => rfl
  | append_singleton l e ih =>
    have hset : addEntries (l ++ [e]) [] = mapSet e.1 e.2 (addEntries l []) := by simp [addEntries]
    rw [hset, codeOf, mapGet_mapSet, ← codeOf, ih, List.filter_append]
    by_cases hb : e.1 = b <;> simp [hb]

/-- The codes of a tree whose leaves have different symbols are its leaves' paths (R91). -/
theorem addEntries_leafPaths_perm {t : Tree} (ht : t.symbols.Nodup) :
    (addEntries (leafPaths t []) []).Perm (leafPaths t []) := by
  have hnd : ((leafPaths t [] ++ []).map Prod.fst).Nodup := by rwa [List.append_nil, map_fst_leafPaths]
  simpa using addEntries_perm hnd

end Sys2Proof.Machine
end

section
/-! PROOFS. TRIE on tables that meet CT's invariant (41_tree_codetable.md R93, R94): the leaves it makes, and when it can make them. -/

namespace Sys2Proof.Machine

open Sys2Proof.Certificates

/-- A symbol placed at its code is a new leaf there, and the other leaves stay (R93). -/
theorem place_leafPaths {b : Byte} {t t' : Tree} {q : Bits} (h : place b t q = .ok t') :
    (leafPaths t' []).Perm ((b, q) :: leafPaths t []) := by
  induction t, q using place.induct generalizing t' with
  | case1 => cases h; exact .refl _
  | case2 | case3 | case6 => cases h
  | case4 cs ih =>
    obtain ⟨u, hu, h⟩ := (Except.bind_ok_iff _ _ _).1 h
    cases h
    rw [leafPaths_inner]
    exact ((ih hu).map _).append_right _
  | case5 cs ih =>
    obtain ⟨u, hu, h⟩ := (Except.bind_ok_iff _ _ _).1 h
    cases h
    rw [leafPaths_inner]
    exact (ih hu).map _
  | case7 l r cs ih =>
    obtain ⟨u, hu, h⟩ := (Except.bind_ok_iff _ _ _).1 h
    cases h
    rw [leafPaths_inner, leafPaths_inner]
    exact ((ih hu).map _).append_right _
  | case8 l r cs ih =>
    obtain ⟨u, hu, h⟩ := (Except.bind_ok_iff _ _ _).1 h
    cases h
    rw [leafPaths_inner, leafPaths_inner]
    exact (((ih hu).map _).append_left _).trans List.perm_middle

/-- A code clashes with no leaf's path: neither begins with the other (R93). -/
def Tree.FreeAt (t : Tree) (q : Bits) : Prop := ∀ e ∈ leafPaths t [], ¬ q <+: e.2 ∧ ¬ e.2 <+: q

theorem Tree.FreeAt.left {l r : Tree} {q : Bits} (h : (Tree.inner l r).FreeAt (false :: q)) : l.FreeAt q := fun e he => by
  simpa using h (e.1, false :: e.2) (mem_leafPaths_inner_false.2 he)

theorem Tree.FreeAt.right {l r : Tree} {q : Bits} (h : (Tree.inner l r).FreeAt (true :: q)) : r.FreeAt q := fun e he => by
  simpa using h (e.1, true :: e.2) (mem_leafPaths_inner_true.2 he)

theorem freeAt_absent (q : Bits) : Tree.absent.FreeAt q := fun _ he => nomatch he

/-- A code that clashes with no leaf's path can be placed (R93). -/
theorem place_ok_of_freeAt (b : Byte) {t : Tree} {q : Bits} (ht : t.noHollow = true) (hq : t.FreeAt q) :
    ∃ t', place b t q = .ok t' := by
  induction t, q using place.induct with
  | case1 => exact ⟨_, rfl⟩
  | case2 b' => exact absurd List.nil_prefix (hq (b', []) List.mem_cons_self).1
  | case3 l r =>
    obtain ⟨b', q', hmem⟩ := exists_mem_leafPaths ht (by simp)
    exact absurd List.nil_prefix (hq _ hmem).1
  | case6 b' x cs => exact absurd List.nil_prefix (hq (b', []) List.mem_cons_self).2
  | case4 cs ih | case5 cs ih =>
    obtain ⟨u, hu⟩ := ih rfl (freeAt_absent cs)
    exact ⟨_, by rw [place, hu]; rfl⟩
  | case7 l r cs ih =>
    obtain ⟨-, hl, -⟩ := Tree.noHollow_children ht
    obtain ⟨u, hu⟩ := ih hl hq.left
    exact ⟨_, by rw [place, hu]; rfl⟩
  | case8 l r cs ih =>
    obtain ⟨-, -, hr⟩ := Tree.noHollow_children ht
    obtain ⟨u, hu⟩ := ih hr hq.right
    exact ⟨_, by rw [place, hu]; rfl⟩

theorem place_noHollow {b : Byte} {t t' : Tree} {q : Bits} (h : place b t q = .ok t') (ht : t.noHollow = true) :
    t'.noHollow = true :=
  (place_grows h (.inl ht) (le_max_left _ _) (le_max_right _ _)).noHollow

theorem placeAll_leafPaths {c : CodeTable} {t t' : Tree} (h : placeAll c t = .ok t') :
    (leafPaths t' []).Perm (c ++ leafPaths t []) := by
  induction c generalizing t with
  | nil => cases h; exact .refl _
  | cons e c ih =>
    obtain ⟨u, hu, h⟩ := (Except.bind_ok_iff _ _ _).1 h
    exact (ih h).trans (((place_leafPaths hu).append_left c).trans List.perm_middle)

theorem placeAll_ok_of_prefixFree {c : CodeTable} {t : Tree} (ht : t.noHollow = true)
    (hc : PrefixFree (c ++ leafPaths t [])) : ∃ t', placeAll c t = .ok t' := by
  induction c generalizing t with
  | nil => exact ⟨t, rfl⟩
  | cons e c ih =>
    obtain ⟨he, -⟩ := List.pairwise_cons.1 hc
    obtain ⟨u, hu⟩ := place_ok_of_freeAt e.1 ht fun x hx => he x (List.mem_append_right c hx)
    have hperm : (e :: (c ++ leafPaths t [])).Perm (c ++ leafPaths u []) :=
      (((place_leafPaths hu).append_left c).trans List.perm_middle).symm
    obtain ⟨t', h⟩ := ih (place_noHollow hu ht) (prefixFree_of_perm hperm hc)
    exact ⟨t', by rw [placeAll, hu]; exact h⟩

/-- A table without an empty code is placed alike under a root of its own and into an empty slot (R93). -/
theorem toTrie_eq_placeAll {c : CodeTable} (hc : CtWf c) : toTrie c = placeAll c .absent := by
  match c with
  | [] => rfl
  | (b, []) :: c => exact absurd (hc.2 (b, []) List.mem_cons_self).1 (by simp)
  | (b, false :: q) :: c | (b, true :: q) :: c => rfl

theorem toTrie_leafPaths {c : CodeTable} {t : Tree} (hc : CtWf c) (h : toTrie c = .ok t) : (leafPaths t []).Perm c := by
  rw [toTrie_eq_placeAll hc] at h
  simpa [leafPaths] using placeAll_leafPaths h

/-- TRIE makes a tree exactly where no code begins with another (R93). -/
theorem toTrie_ok_iff {c : CodeTable} (hc : CtWf c) : (∃ t, toTrie c = .ok t) ↔ PrefixFree c := by
  constructor
  · rintro ⟨t, h⟩
    exact prefixFree_of_perm (toTrie_leafPaths hc h) (leafPaths_prefixFree t)
  · intro hp
    rw [toTrie_eq_placeAll hc]
    exact placeAll_ok_of_prefixFree rfl (by simpa [leafPaths] using hp)

theorem toTrie_malformed {c : CodeTable} (hc : CtWf c) (hp : ¬ PrefixFree c) : toTrie c = .error .malformed := by
  cases h : toTrie c with
  | ok t => exact absurd ((toTrie_ok_iff hc).1 ⟨t, h⟩) hp
  | error e => simpa using toTrie_raises c e h

/-- The trie of a tree's leaf paths is the tree (R101). -/
theorem toTrie_of_leafPaths {c : CodeTable} {t : Tree} (hc : CtWf c) (ht : t.noHollow = true)
    (hperm : (leafPaths t []).Perm c) : toTrie c = .ok t := by
  obtain ⟨t', h⟩ := (toTrie_ok_iff hc).2 (prefixFree_of_perm hperm (leafPaths_prefixFree t))
  have hsame := (toTrie_leafPaths hc h).trans hperm.symm
  obtain ⟨-, ht', -⟩ := toTrie_wf hc h
  rw [h, eq_of_mem_leafPaths_iff ht' ht fun b q => hsame.mem_iff]

end Sys2Proof.Machine
end

section
/-! PROOFS. BUILD's tree (41_tree_codetable.md R87 to R89): the two normalized inputs, and the leaves and their depths where
two symbols or more are present. -/

namespace Sys2Proof.Machine

open Sys2Proof.Certificates

/-! ### The present bytes (R87) -/

theorem present_of_wf {f : FreqTable} (hf : FtWf f) : present f = f :=
  List.filter_eq_self.2 fun e he => decide_eq_true (hf.2 e he).1

theorem presentBytes_ascending (f : FreqTable) : (presentBytes f).Pairwise (· < ·) := by
  refine (List.pairwise_map.2 (List.pairwise_lt_range.imp_of_mem fun {a b} ha hb hab => ?_)).filter _
  rw [List.mem_range] at ha hb
  simpa [BitVec.lt_def, Nat.mod_eq_of_lt ha, Nat.mod_eq_of_lt hb] using hab

theorem mem_presentBytes {f : FreqTable} {b : Byte} : b ∈ presentBytes f ↔ 0 < countOf f b := by
  have hb : b ∈ (List.range 256).map (BitVec.ofNat 8) := List.mem_map.2 ⟨b.toNat, List.mem_range.2 b.isLt, by simp⟩
  rw [presentBytes, List.mem_filter, decide_eq_true_eq, and_iff_right hb]

/-- R87's present bytes are those FT lists, in FT's order. -/
theorem presentBytes_eq {f : FreqTable} (hf : FtWf f) : presentBytes f = f.map Prod.fst :=
  (presentBytes_ascending f).eq_of_mem_iff (List.pairwise_map.2 hf.1) fun _ => mem_presentBytes.trans (countOf_pos_iff hf)

theorem presentCount_eq {f : FreqTable} (hf : FtWf f) : presentCount f = f.length := by
  rw [← List.length_map Prod.fst, ← presentBytes_eq hf, presentBytes, List.filter_map, List.length_map]
  rfl

/-! ### The normalized inputs (R87, R89) -/

theorem eq_nil_of_countOf {f : FreqTable} (hf : FtWf f) (h : ∀ b, countOf f b = 0) : f = [] :=
  List.eq_nil_iff_forall_not_mem.2 fun e he =>
    absurd ((countOf_pos_iff hf).2 (List.mem_map_of_mem he)) (by simp [h])

theorem eq_singleton_of_countOf {f : FreqTable} {b : Byte} (hf : FtWf f) (h : ∀ c, 0 < countOf f c ↔ c = b) :
    ∃ n, f = [(b, n)] := by
  have hkeys : f.map Prod.fst = [b] := List.perm_singleton.1
    ((List.perm_ext_iff_of_nodup hf.1.keys_nodup (List.nodup_singleton b)).2 fun c => by
      rw [← countOf_pos_iff hf, h, List.mem_singleton])
  obtain ⟨⟨_, n⟩, rfl, rfl⟩ := List.map_eq_singleton_iff.1 hkeys
  exact ⟨n, rfl⟩

theorem buildTree_singleton {b : Byte} {n : Nat} (hf : FtWf [(b, n)]) :
    buildTree [(b, n)] = .inner (.leaf b) .absent := by
  rw [buildTree, present_of_wf hf]

theorem buildTree_of_two_le {f : FreqTable} (hf : FtWf f) (h : 2 ≤ f.length) :
    buildTree f = mergeAll f.length f.length (enqueueLeaves 0 f []) := by
  rw [buildTree, present_of_wf hf]
  match f with
  | [] | [_] => simp at h
  | _ :: _ :: _ => rfl

/-! ### What merging keeps (R87) -/

/-- A property of collections of trees, in any order, that goes on to hold when two of them become one. -/
structure MergeStable (P : List Tree → Prop) : Prop where
  perm : ∀ {ts ts' : List Tree}, ts.Perm ts' → P ts → P ts'
  merge : ∀ {l r : Tree} {ts : List Tree}, P (l :: r :: ts) → P (.inner l r :: ts)

/-- What merging keeps holds of the tree that is left where it holds of the queue's nodes. -/
theorem MergeStable.mergeAll {P : List Tree → Prop} (hP : MergeStable P) {fuel seq : Nat} {q : List Ranked} (hne : q ≠ [])
    (hf : q.length ≤ fuel) (hq : P (q.map Ranked.node)) : P [mergeAll fuel seq q] := by
  induction fuel generalizing seq q with
  | zero => exact absurd (List.length_eq_zero_iff.1 (Nat.le_zero.1 hf)) hne
  | succ fuel ih =>
    match q with
    | [] => exact absurd rfl hne
    | [x] => exact hq
    | x :: y :: q =>
      have hlen := enqueue_length ⟨x.freq + y.freq, seq, .inner x.node y.node⟩ q
      refine ih (List.ne_nil_of_length_eq_add_one hlen) (by simp only [List.length_cons] at hf; omega) ?_
      exact hP.perm ((enqueue_perm _ q).map _).symm (hP.merge hq)

/-- BUILD's queue at the start holds one leaf for each present byte, in some order (R87). -/
theorem enqueueLeaves_nodes (seq : Nat) (f : FreqTable) (q : List Ranked) :
    ((enqueueLeaves seq f q).map Ranked.node).Perm (f.map (fun e => Tree.leaf e.1) ++ q.map Ranked.node) := by
  induction f generalizing seq q with
  | nil => exact .refl _
  | cons e f ih =>
    exact (ih _ _).trans ((((enqueue_perm _ q).map _).append_left _).trans List.perm_middle)

/-- What merging keeps holds of BUILD's tree where it holds of the leaves. -/
theorem MergeStable.buildTree {P : List Tree → Prop} (hP : MergeStable P) {f : FreqTable} (hf : FtWf f)
    (h2 : 2 ≤ f.length) (h : P (f.map (fun e => Tree.leaf e.1))) : P [buildTree f] := by
  have hlen := enqueueLeaves_length 0 f []
  rw [buildTree_of_two_le hf h2]
  refine hP.mergeAll (List.ne_nil_of_length_pos (by omega)) (by simp [hlen]) ?_
  exact hP.perm (enqueueLeaves_nodes 0 f []).symm (by simpa using h)

/-- BUILD's leaves are the present bytes, each once (R87, R89). -/
theorem buildTree_symbols_perm {f : FreqTable} (hf : FtWf f) : (buildTree f).symbols.Perm (f.map Prod.fst) := by
  match f with
  | [] => exact .refl _
  | [(b, n)] => rw [buildTree_singleton hf]; exact .refl _
  | e :: e' :: f =>
    have hP : MergeStable (fun ts => (ts.flatMap Tree.symbols).Perm ((e :: e' :: f).map Prod.fst)) :=
      ⟨fun hts h => (hts.flatMap_right _).symm.trans h, fun h => by simpa [Tree.symbols] using h⟩
    have h := hP.buildTree hf (by simp) (by rw [List.flatMap_map, List.map_eq_flatMap]; exact .refl _)
    simpa using h

/-- Every `Inner` has both children. -/
def Tree.Full : Tree → Prop
  | .absent => False
  | .leaf _ => True
  | .inner l r => l.Full ∧ r.Full

theorem buildTree_full {f : FreqTable} (hf : FtWf f) (h2 : 2 ≤ f.length) : (buildTree f).Full := by
  have hP : MergeStable (fun ts => ∀ t ∈ ts, t.Full) :=
    ⟨fun hts h t ht => h t (hts.mem_iff.2 ht), fun h => by simpa [Tree.Full, and_assoc] using h⟩
  exact hP.buildTree hf h2 (List.forall_mem_map.2 fun _ _ => trivial) _ List.mem_cons_self

/-- A tree of `n` merged leaves has `n - 1` levels at most (R102). -/
theorem buildTree_height {f : FreqTable} (hf : FtWf f) (h2 : 2 ≤ f.length) : (buildTree f).height + 1 ≤ f.length := by
  have hP : MergeStable (fun ts => (ts.map (fun t => t.height + 1)).sum ≤ f.length) :=
    ⟨fun hts h => (hts.map (fun t => t.height + 1)).sum_eq ▸ h,
      fun h => by simp only [List.map_cons, List.sum_cons, Tree.height] at h ⊢; omega⟩
  simpa using hP.buildTree hf h2 (by simp [Function.comp_def, Tree.height])

/-- The leaves of a full tree fill the space of bits below its root (R102). -/
theorem Tree.Full.kraft {t : Tree} (ht : t.Full) (p : Bits) :
    ((leafPaths t p).map (fun e => (1 / 2 : ℚ) ^ e.2.length)).sum = (1 / 2) ^ p.length := by
  induction t generalizing p with
  | absent => exact ht.elim
  | leaf b => simp [leafPaths]
  | inner l r ihl ihr =>
    rw [leafPaths, List.map_append, List.sum_append, ihl ht.1, ihr ht.2, List.length_append, List.length_append]
    simp only [List.length_singleton, pow_succ]
    ring

/-! ### The codes of BUILD's tree (R100) -/

theorem codesOf_buildTree {f : FreqTable} (hf : FtWf f) :
    ∃ c, codesOf (buildTree f) = .ok c ∧ CtWf c ∧ (leafPaths (buildTree f) []).Perm c := by
  have hwf := buildTree_wf hf
  have hc := codesOf_eq hwf.1
  have hnd : (buildTree f).symbols.Nodup := (buildTree_symbols_perm hf).nodup_iff.2 hf.1.keys_nodup
  exact ⟨_, hc, (codesOf_wf hwf hc).1, (addEntries_leafPaths_perm hnd).symm⟩

end Sys2Proof.Machine
end

section
/-! PROOFS. R87 read literally (41_tree_codetable.md R87, R88): a search for the least triple of an unordered collection takes
the head of BUILD's sorted queue at each round. -/

namespace Sys2Proof.Machine

open Sys2Proof.Certificates

/-- The queue's order (R88): a triple is before another where its pair of frequency and sequence number is less. -/
theorem Ranked.before_iff {x y : Ranked} : x.before y = true ↔ x.freq < y.freq ∨ x.freq = y.freq ∧ x.seq < y.seq := by
  simp [Ranked.before]

theorem Ranked.before_trans {x y z : Ranked} (hxy : x.before y = true) (hyz : y.before z = true) : x.before z = true := by
  rw [Ranked.before_iff] at *
  omega

/-- The search answers a triple of the collection that no other one is before. -/
theorem leastOf_spec (x : Ranked) (xs : List Ranked) :
    leastOf x xs ∈ x :: xs ∧ ∀ y ∈ x :: xs, ¬ y.before (leastOf x xs) = true := by
  induction xs generalizing x with
  | nil => simp [leastOf, Ranked.before]
  | cons y ys ih =>
    rw [leastOf]
    by_cases hyx : y.before x = true
    · rw [if_pos hyx]
      obtain ⟨hmem, hmin⟩ := ih y
      obtain ⟨hy, -⟩ := List.forall_mem_cons.1 hmin
      exact ⟨List.mem_cons_of_mem x hmem, List.forall_mem_cons.2 ⟨fun hx => hy (Ranked.before_trans hyx hx), hmin⟩⟩
    · rw [if_neg hyx]
      obtain ⟨hmem, hmin⟩ := ih x
      obtain ⟨hx, hys⟩ := List.forall_mem_cons.1 hmin
      have hy : ¬ y.before (leastOf x ys) = true := by
        rw [Ranked.before_iff] at *
        omega
      exact ⟨List.mem_cons.2 ((List.mem_cons.1 hmem).imp_right (List.mem_cons_of_mem y)),
        List.forall_mem_cons.2 ⟨hx, List.forall_mem_cons.2 ⟨hy, hys⟩⟩⟩

/-- Each triple of the queue is before those behind it, and all sequence numbers are below the next one (R88). -/
def Queued (seq : Nat) (q : List Ranked) : Prop := q.Pairwise (fun x y => x.before y = true) ∧ ∀ x ∈ q, x.seq < seq

theorem enqueue_queued {q : List Ranked} {x : Ranked} (hq : Queued x.seq q) : Queued (x.seq + 1) (enqueue x q) := by
  obtain ⟨hord, hseq⟩ := hq
  refine ⟨?_, fun y hy => ?_⟩
  · induction q with
    | nil => exact List.pairwise_singleton _ _
    | cons y q ih =>
      obtain ⟨hy, hord'⟩ := List.pairwise_cons.1 hord
      obtain ⟨hyseq, hseq⟩ := List.forall_mem_cons.1 hseq
      unfold enqueue
      split
      · next hxy => exact .cons (List.forall_mem_cons.2 ⟨hxy, fun z hz => Ranked.before_trans hxy (hy z hz)⟩) hord
      · next hxy =>
        have hyx : y.before x = true := by
          rw [Ranked.before_iff] at hxy ⊢
          omega
        have hbefore : ∀ z ∈ x :: q, y.before z = true := List.forall_mem_cons.2 ⟨hyx, hy⟩
        exact .cons (fun z hz => hbefore z ((enqueue_perm x q).mem_iff.1 hz)) (ih hord' hseq)
  · rcases List.mem_cons.1 ((enqueue_perm x q).mem_iff.1 hy) with rfl | hy
    · exact Nat.lt_succ_self _
    · exact (hseq y hy).trans (Nat.lt_succ_self _)

/-- The search on the queue's triples in any order takes the queue's head. -/
theorem removeMin_of_perm {x : Ranked} {q q' : List Ranked} (hord : ∀ y ∈ q, x.before y = true) (h : q'.Perm (x :: q)) :
    ∃ q1, removeMin q' = some (x, q1) ∧ q1.Perm q := by
  match q' with
  | [] => exact absurd h.symm List.not_perm_cons_nil
  | y :: ys =>
    obtain ⟨hmem, hmin⟩ := leastOf_spec y ys
    have hx : leastOf y ys = x := by
      rcases List.mem_cons.1 (h.mem_iff.1 hmem) with hx | hx
      · exact hx
      · exact absurd (hord _ hx) (hmin x (h.mem_iff.2 List.mem_cons_self))
    refine ⟨_, by rw [removeMin, hx], ?_⟩
    simpa using h.erase x

theorem mergeByRemoval_eq {fuel seq : Nat} {q q' : List Ranked} (hq : Queued seq q) (h : q'.Perm q)
    (hf : q.length ≤ fuel) : mergeByRemoval fuel seq q' = mergeAll fuel seq q := by
  induction fuel generalizing seq q q' with
  | zero =>
    obtain rfl := List.length_eq_zero_iff.1 (Nat.le_zero.1 hf)
    rfl
  | succ fuel ih =>
    match q with
    | [] =>
      obtain rfl := h.eq_nil
      rfl
    | [x] =>
      obtain rfl := List.perm_singleton.1 h
      simp [mergeByRemoval, removeMin, leastOf, mergeAll]
    | x :: y :: q =>
      obtain ⟨hord, hseq⟩ := hq
      obtain ⟨hx, hord⟩ := List.pairwise_cons.1 hord
      obtain ⟨q1, h1, hq1⟩ := removeMin_of_perm hx h
      obtain ⟨q2, h2, hq2⟩ := removeMin_of_perm (List.pairwise_cons.1 hord).1 hq1
      let z : Ranked := ⟨x.freq + y.freq, seq, .inner x.node y.node⟩
      have hz : Queued (seq + 1) (enqueue z q) :=
        enqueue_queued ⟨(List.pairwise_cons.1 hord).2, fun w hw => hseq w (by simp [hw])⟩
      simp only [mergeByRemoval, h1, h2, mergeAll]
      refine ih hz ((hq2.cons z).trans (enqueue_perm z q).symm) ?_
      simp only [enqueue_length, List.length_cons] at hf ⊢
      omega

/-- The triple of an entry of FT with its sequence number (R87). -/
def leafTriple (e : (Byte × Nat) × Nat) : Ranked := ⟨e.1.2, e.2, .leaf e.1.1⟩

theorem enqueueLeaves_queued {seq : Nat} (f : FreqTable) {q : List Ranked} (hq : Queued seq q) :
    Queued (seq + f.length) (enqueueLeaves seq f q) ∧
      (enqueueLeaves seq f q).Perm ((f.zipIdx seq).map leafTriple ++ q) := by
  induction f generalizing seq q with
  | nil => exact ⟨hq, .refl _⟩
  | cons e f ih =>
    obtain ⟨hord, hperm⟩ := ih (enqueue_queued (x := leafTriple (e, seq)) hq)
    refine ⟨by rwa [List.length_cons, Nat.add_comm f.length, ← Nat.add_assoc], ?_⟩
    exact hperm.trans (((enqueue_perm _ q).append_left _).trans List.perm_middle)

theorem map_zipIdx_keys {f : FreqTable} (hf : FtWf f) :
    (f.map Prod.fst).zipIdx.map (fun e => (⟨countOf f e.1, e.2, .leaf e.1⟩ : Ranked)) = f.zipIdx.map leafTriple := by
  rw [List.zipIdx_map, List.map_map]
  refine List.map_congr_left fun e he => ?_
  simp [leafTriple, countOf_of_mem hf (List.fst_mem_of_mem_zipIdx he)]

/-- BUILD's sorted queue and R87's search take the same triples (R87, R88). -/
theorem buildTree_eq_buildByRemoval {f : FreqTable} (hf : FtWf f) : buildTree f = buildByRemoval f := by
  unfold buildByRemoval
  rw [presentBytes_eq hf]
  match f with
  | [] => rfl
  | [(b, n)] => exact buildTree_singleton hf
  | e :: e' :: f =>
    obtain ⟨hq, hperm⟩ := enqueueLeaves_queued (e :: e' :: f) (seq := 0) (q := []) ⟨.nil, nofun⟩
    rw [List.append_nil, ← map_zipIdx_keys hf] at hperm
    rw [Nat.zero_add] at hq
    rw [buildTree_of_two_le hf (by simp), ← mergeByRemoval_eq hq hperm.symm (by simp), ← List.length_map Prod.fst]
    rfl

end Sys2Proof.Machine
end

section
/-! PROOFS. The statements about trees and code tables (41_tree_codetable.md R86 to R96, R100 to R103). -/

namespace Sys2Proof.Proofs

open Sys2Proof Sys2Proof.Machine Sys2Proof.Certificates

/-- Settles O13: TDES parses a table's layout in any order of its entries (`tdes_parses`) and reads nothing else
(`tdes_spans`). -/
theorem tableSerializationRoundTrip : Obligations.TableSerializationRoundTrip := by
  refine ⟨fun c hc => ⟨tser_of_wf hc, fun l r hl => ?_⟩, fun s p p' c h => ?_⟩
  · have h := (tdes_parses hc hl).whole (s := tableBytes l ++ r) (p := 0) ⟨[], rfl, rfl⟩
    rwa [Nat.zero_add] at h
  · obtain ⟨l, hl, rfl, y, hy⟩ := tdes_spans h
    refine ⟨(tdes_wf h).1, l, hl, ?_⟩
    rw [hy.drop, Nat.add_sub_cancel_left, List.take_left]

/-- Settles O15: the codes are the tree's leaf paths, and a tree without hollow nodes is determined by them
(`toTrie_of_leafPaths`). -/
theorem trieRebuildsBuiltTree : Obligations.TrieRebuildsBuiltTree := by
  intro f hf
  obtain ⟨c, hcodes, hc, hperm⟩ := codesOf_buildTree hf
  obtain ⟨-, ht, -⟩ := buildTree_wf hf
  exact ⟨c, hcodes, toTrie_of_leafPaths hc ht hperm⟩

/-- Settles O6: each byte of DIN adds one to its own count (`countOf_foldl_bump`, by induction on the bytes). -/
theorem freqCountsBytes : Obligations.FreqCountsBytes := by
  refine ⟨rfl, fun s => ⟨freqOf s.din, exec_of_regs (i := .freq) rfl rfl, countOf_freqOf s.din, ?_⟩⟩
  obtain ⟨hasc, hpos⟩ := foldl_bump_within (n := 0) (f := []) s.din .nil nofun
  exact ⟨hasc, fun e he => (hpos e he).1⟩

/-- Settles O7: the counts of the two inputs leave FT no entry, or one. -/
theorem buildStoresTree : Obligations.BuildStoresTree := by
  refine ⟨rfl, fun s => ⟨exec_of_regs (i := .build) rfl rfl, fun hf => ⟨fun h => ?_, fun b h => ?_⟩⟩⟩
  · rw [eq_nil_of_countOf hf h]
    rfl
  · obtain ⟨n, hn⟩ := eq_singleton_of_countOf hf h
    rw [hn] at hf ⊢
    exact buildTree_singleton hf

/-- Settles O8: at each round the sorted queue's head is the least triple of the collection (`mergeByRemoval_eq`, by induction
on the rounds). -/
theorem buildFollowsMinimumSelection : Obligations.BuildFollowsMinimumSelection := fun _ => buildTree_eq_buildByRemoval

/-- Settles O9: the visit sets the codes of the leaves from left to right (`visit_eq_addEntries`), so the last one of a byte
stands. -/
theorem codesAreLeafPaths : Obligations.CodesAreLeafPaths := by
  refine ⟨rfl, fun s => ⟨fun ht => ?_, fun ht => ?_⟩⟩
  · exact ⟨_, exec_of_regs (i := .codes) rfl (by rw [regsOf, codesRegs, codesOf_eq ht]; rfl), addEntries_ascending .nil,
      codeOf_addEntries _⟩
  · exact (exec_eq_abort_iff (i := .codes) rfl).2 (by rw [regsOf, codesRegs, codesOf_leaf ht]; rfl)

/-- Settles O10: a code can be placed where it clashes with no leaf (`placeAll_ok_of_prefixFree`), and the paths to a tree's leaves
part (`leafPaths_prefixFree`). -/
theorem trieSucceedsExactlyOnPrefixFree : Obligations.TrieSucceedsExactlyOnPrefixFree := by
  refine ⟨rfl, fun s hc => ⟨fun hp => ?_, fun hp => ?_⟩⟩
  · obtain ⟨t, h⟩ := (toTrie_ok_iff hc).2 hp
    refine ⟨t, exec_of_regs (i := .trie) rfl (by rw [regsOf, trieRegs, h]; rfl), toTrie_leafPaths hc h, fun hnil => ?_,
      toTrie_wf hc h⟩
    rw [hnil] at h
    cases h
    rfl
  · exact (exec_eq_abort_iff (i := .trie) rfl).2 (by rw [regsOf, trieRegs, toTrie_malformed hc hp]; rfl)

/-- Settles O11: TSER writes the table's layout (`tser_of_wf`), and DOUT takes it exactly where it fits. -/
theorem tserAppendsTable : Obligations.TserAppendsTable := by
  refine ⟨rfl, fun s hc => ?_⟩
  have hregs : regsOf .tser s = s.appendDout (tableBytes s.ct) := by
    rw [regsOf, tserRegs, tser_of_wf hc]
    rfl
  rw [State.appendDout_eq] at hregs
  refine ⟨tableBytes_length s.ct, fun hfit => ?_, fun hfull => ?_⟩
  · rw [if_pos hfit] at hregs
    exact exec_of_regs rfl hregs
  · rw [if_neg (Nat.not_le_of_lt hfull)] at hregs
    exact (exec_eq_abort_iff rfl).2 hregs

/-- Settles O14: the codes are the paths of BUILD's leaves, and those leaves are the present bytes, each once
(`buildTree_symbols_perm`). -/
theorem builtCodesCoverPresentBytes : Obligations.BuiltCodesCoverPresentBytes := by
  intro f hf
  obtain ⟨c, hcodes, -, hperm⟩ := codesOf_buildTree hf
  refine ⟨c, hcodes, prefixFree_of_perm hperm (leafPaths_prefixFree _), fun b => ?_, hperm⟩
  have hkeys : (c.map Prod.fst).Perm (f.map Prod.fst) := by
    refine (hperm.symm.map _).trans ?_
    rw [map_fst_leafPaths]
    exact buildTree_symbols_perm hf
  rw [codeOf, ← mem_keys_iff, countOf_pos_iff hf, hkeys.mem_iff]

/-- Settles O16: BUILD's tree of two symbols or more is full (`Tree.Full.kraft`) and merging adds no level
(`buildTree_height`). -/
theorem builtCodeLengths : Obligations.BuiltCodeLengths := by
  intro f c hf hcodes
  obtain ⟨c', hcodes', hc, hperm⟩ := codesOf_buildTree hf
  obtain rfl : c' = c := Except.ok.inj (hcodes'.symm.trans hcodes)
  rw [presentCount_eq hf]
  refine ⟨fun e he => (hc.2 e he).2, fun h1 e he => ?_, fun h2 => ⟨fun e he => ⟨(hc.2 e he).1, ?_⟩, ?_⟩⟩
  · obtain ⟨⟨b, n⟩, rfl⟩ := List.length_eq_one_iff.1 h1
    rw [buildTree_singleton hf] at hperm
    rw [List.mem_singleton.1 (hperm.mem_iff.2 he)]
    rfl
  · have hdepth := length_le_height (hperm.mem_iff.2 he)
    have hheight := buildTree_height hf h2
    omega
  · rw [← (hperm.map _).sum_eq]
    exact ((buildTree_full hf h2).kraft []).trans (pow_zero _)

end Sys2Proof.Proofs
end

section
/-! PROOFS. The packed form of a bit string and PACK on any input: the form exists for every string, and it is what PACK writes
(42_bitpack.md R105, R109). -/

namespace Sys2Proof.Machine

open Sys2Proof.Certificates

/-! ### Bytes made of given bits (20_memory.md R43) -/

theorem exists_byteBits_eq {x : Bits} (hx : x.length = 8) : ∃ b, byteBits b = x := by
  refine ⟨(BitVec.ofBoolListBE x).cast hx, List.ext_getElem hx.symm fun i hi _ => ?_⟩
  have h8 : i < 8 := hi
  have hidx : x.length - 1 - (7 - i) = i := by omega
  have hi' : i < x.length := by omega
  simp [byteBits, hidx, hi', show 7 - i < x.length by omega]

/-- Bits that fill whole bytes are the bits of those bytes. -/
theorem exists_flatMap_byteBits_eq {n : Nat} {x : Bits} (hx : x.length = 8 * n) :
    ∃ pk : Bytes, pk.length = n ∧ pk.flatMap byteBits = x := by
  induction n generalizing x with
  | zero => exact ⟨[], rfl, (List.length_eq_zero_iff.1 hx).symm⟩
  | succ n ih =>
    obtain ⟨b, hb⟩ := exists_byteBits_eq (x := x.take 8) (by rw [List.length_take]; omega)
    obtain ⟨pk, hlen, hpk⟩ := ih (x := x.drop 8) (by rw [List.length_drop]; omega)
    exact ⟨b :: pk, by rw [List.length_cons, hlen], by rw [List.flatMap_cons, hb, hpk, List.take_append_drop]⟩

/-! ### The packed form (R105) -/

/-- `pk` and `e` are the packed form of `bits`: the bits, zero padding up to a whole number of bytes, and the number of bits in
the last byte (R105). -/
structure PackedForm (pk : Bytes) (e : Byte) (bits : Bits) : Prop where
  packed : PackedAs pk e bits
  zero : ZeroAfter pk bits.length
  length : pk.length = (bits.length + 7) / 8
  whole : bits.length % 8 = 0 → e = 8#8

/-- Every bit string has a packed form: pad it with zeros to whole bytes. -/
theorem exists_packedForm (bits : Bits) : ∃ pk e, PackedForm pk e bits := by
  have hpad : (bits ++ List.replicate (8 * ((bits.length + 7) / 8) - bits.length) false).length =
      8 * ((bits.length + 7) / 8) := by
    rw [List.length_append, List.length_replicate]
    omega
  obtain ⟨pk, hlen, hpk⟩ := exists_flatMap_byteBits_eq hpad
  have heff : (BitVec.ofNat 8 ((bits.length + 7) % 8 + 1)).toNat = (bits.length + 7) % 8 + 1 := Nat.mod_eq_of_lt (by omega)
  refine ⟨pk, BitVec.ofNat 8 ((bits.length + 7) % 8 + 1), ⟨(validEff_iff _).2 (by omega), ?_, by rw [hpk, List.take_left]⟩, ?_,
    hlen, fun h => congrArg (BitVec.ofNat 8) (by omega)⟩
  · rw [heff, hlen, nbits]
    split <;> omega
  · rw [ZeroAfter, hpk, List.drop_left]
    exact fun x hx => List.eq_of_mem_replicate hx

/-- PACK's accumulating byte writes the packed form (R105). -/
theorem packBits_packedForm (bits : Bits) : PackedForm (packBits 0 0 bits).1 (packBits 0 0 bits).2 bits := by
  obtain ⟨pk, e, h⟩ := exists_packedForm bits
  rw [packBits_of_packedAs h.packed h.zero fun hnil => h.whole (by rw [hnil]; rfl)]
  exact h

/-- The padding bits are the low ones of the last byte (R109). -/
theorem PackedForm.padding {pk : Bytes} {e x : Byte} {bits : Bits} (h : PackedForm pk e bits) (hx : pk.getLast? = some x)
    {j : Nat} (hj : j < 8 - e.toNat) : x.getLsbD j = false := by
  obtain ⟨init, rfl⟩ := List.getLast?_eq_some_iff.1 hx
  obtain ⟨-, hn, -⟩ := h.packed
  have hbits : bits.length = (init.flatMap byteBits).length + e.toNat := by
    rw [← hn, flatMap_byteBits_length]
    simp [nbits]
  have hzero := h.zero
  rw [ZeroAfter, hbits, List.flatMap_append, List.drop_length_add_append] at hzero
  refine hzero _ (List.mem_drop_iff_getElem.2 ⟨7 - j - e.toNat, ?_, ?_⟩)
  · simp
    omega
  · simp [byteBits, show e.toNat + (7 - j - e.toNat) = 7 - j by omega, show 7 - (7 - j) = j by omega]

/-! ### PACK (R105, R106) -/

/-- A check that a command's pseudocode makes before it goes on (60_exceptions.md R170). -/
theorem require_decide_bind {α : Type} (p : Prop) [Decidable p] (e : Err) (x : Except Err α) :
    (require (decide p) e >>= fun _ => x) = if p then x else .error e := by
  by_cases h : p
  · rw [decide_eq_true h, if_pos h]
    rfl
  · rw [decide_eq_false h, if_neg h]
    rfl

theorem pack_of_covers {c : CodeTable} {d : Bytes} (h : Covers c d) :
    ∃ o e, PackedForm o e (bitsOf c d) ∧
      pack d c = if o.length ≤ Config.maxField then .ok (o, e) else .error .capacityExceeded := by
  refine ⟨_, _, packBits_packedForm _, ?_⟩
  rw [pack, codeBits_of_covers h]
  exact require_decide_bind _ _ _

theorem pack_of_not_covers {c : CodeTable} {d : Bytes} (h : ¬ Covers c d) : pack d c = .error .unknownSymbol := by
  obtain ⟨b, hb, hnone⟩ : ∃ b ∈ d, codeOf c b = none := by simpa [Covers] using h
  rw [pack, codeBits_unknown hb hnone]
  rfl

/-- A PACK that succeeds found a code for every byte and made the packed form of the code bits (R105). -/
theorem pack_ok {c : CodeTable} {d o : Bytes} {e : Byte} (h : pack d c = .ok (o, e)) :
    Covers c d ∧ PackedForm o e (bitsOf c d) := by
  by_cases hc : Covers c d
  · obtain ⟨o', e', hform, hpack⟩ := pack_of_covers hc
    rw [h] at hpack
    split at hpack
    · cases hpack
      exact ⟨hc, hform⟩
    · cases hpack
  · rw [pack_of_not_covers hc] at h
    cases h

/-- PK takes what PACK made exactly where it fits in BUF_CAP (R106). -/
theorem packRegs_of_pack {s : State} {o : Bytes} {e : Byte} (h : pack s.din s.ct = .ok (o, e)) :
    packRegs s = if o.length ≤ s.cap then .ok ((s.setPk o).setEff e) else .error .capacityExceeded := by
  rw [packRegs, h]
  exact require_decide_bind _ _ _

theorem packRegs_of_error {s : State} {err : Err} (h : pack s.din s.ct = .error err) : packRegs s = .error err := by
  rw [packRegs, h]
  rfl

end Sys2Proof.Machine
end

section
/-! PROOFS. UNPACK: the walk from the root follows leaf paths, and accepts nothing else (42_bitpack.md R107). -/

namespace Sys2Proof.Machine

open Sys2Proof.Certificates

/-! ### The walk of the bits (R107) -/

/-- A leaf's path begins with the step to a child. -/
theorem mem_leafPaths_cons {n : Tree} {b : Byte} {x : Bool} {q : Bits} :
    (b, x :: q) ∈ leafPaths n [] ↔ (b, q) ∈ leafPaths (n.child x) [] := by
  cases n with
  | absent | leaf b' => simp [leafPaths, Tree.child]
  | inner l r => cases x <;> simp [Tree.child]

theorem walkBits_cons_leaf {t n : Tree} {r x : Bool} {bits : Bits} {b : Byte} (h : n.child x = .leaf b) :
    walkBits t n r (x :: bits) = walkBits t t true bits >>= fun out => .ok (b :: out) := by
  simp only [walkBits, h]

theorem walkBits_cons_inner {t n l r : Tree} {root x : Bool} {bits : Bits} (h : n.child x = .inner l r) :
    walkBits t n root (x :: bits) = walkBits t (.inner l r) false bits := by
  simp only [walkBits, h]

theorem walkBits_cons_absent {t n : Tree} {r x : Bool} {bits : Bits} (h : n.child x = .absent) :
    walkBits t n r (x :: bits) = .error .malformed := by
  simp only [walkBits, h]

/-- The walk of a leaf's path emits its symbol and starts again at the root. -/
theorem walkBits_path {t n : Tree} {root : Bool} {b : Byte} {q : Bits} (bits : Bits) (h : (b, q) ∈ leafPaths n [])
    (hq : q ≠ []) : walkBits t n root (q ++ bits) = walkBits t t true bits >>= fun out => .ok (b :: out) := by
  induction q generalizing n root with
  | nil => exact absurd rfl hq
  | cons x q ih =>
    have hx := mem_leafPaths_cons.1 h
    rw [List.cons_append]
    cases hc : n.child x with
    | absent =>
      rw [hc] at hx
      cases hx
    | leaf b' =>
      rw [hc] at hx
      cases List.mem_singleton.1 hx
      exact walkBits_cons_leaf hc
    | inner l r =>
      rw [hc] at hx
      rw [walkBits_cons_inner hc]
      exact ih hx fun hnil => nil_notMem_leafPaths_inner (hnil ▸ hx)

theorem walkBits_paths {t : Tree} (ht : t.isLeaf = false) {ps : List (Byte × Bits)} (h : ∀ e ∈ ps, e ∈ leafPaths t []) :
    walkBits t t true (ps.flatMap Prod.snd) = .ok (ps.map Prod.fst) := by
  induction ps with
  | nil => rfl
  | cons e ps ih =>
    obtain ⟨b, q⟩ := e
    have hmem := h (b, q) List.mem_cons_self
    have hq : q ≠ [] := by
      rintro rfl
      cases t with
      | absent => cases hmem
      | leaf b' => cases ht
      | inner l r => exact nil_notMem_leafPaths_inner hmem
    rw [List.flatMap_cons, walkBits_path _ hmem hq, ih fun e he => h e (List.mem_cons_of_mem _ he)]
    rfl

/-- A walk that succeeds began at the root with no bits left, or first followed the path to a leaf. -/
theorem walkBits_ok {t n : Tree} {root : Bool} {bits : Bits} {out : Bytes} (h : walkBits t n root bits = .ok out) :
    (root = true ∧ bits = [] ∧ out = []) ∨
      ∃ b q rest out', (b, q) ∈ leafPaths n [] ∧ q ≠ [] ∧ bits = q ++ rest ∧ out = b :: out' ∧
        walkBits t t true rest = .ok out' := by
  induction bits generalizing n root with
  | nil =>
    cases root with
    | false => cases h
    | true => cases h; exact .inl ⟨rfl, rfl, rfl⟩
  | cons x bits ih =>
    right
    cases hc : n.child x with
    | absent =>
      rw [walkBits_cons_absent hc] at h
      cases h
    | leaf b =>
      rw [walkBits_cons_leaf hc] at h
      obtain ⟨out', hrest, h⟩ := (Except.bind_ok_iff _ _ _).1 h
      cases h
      exact ⟨b, [x], bits, out', mem_leafPaths_cons.2 (by rw [hc]; exact List.mem_cons_self), by simp, rfl, rfl, hrest⟩
    | inner l r =>
      rw [walkBits_cons_inner hc] at h
      rcases ih h with ⟨hroot, -, -⟩ | ⟨b, q, rest, out', hmem, -, rfl, rfl, hrest⟩
      · cases hroot
      · exact ⟨b, x :: q, rest, out', mem_leafPaths_cons.2 (by rwa [hc]), by simp, rfl, rfl, hrest⟩

/-- The bits of a walk that succeeds are leaf paths, one after another. -/
theorem paths_of_walkBits_ok {t : Tree} {bits : Bits} {out : Bytes} (h : walkBits t t true bits = .ok out) :
    ∃ ps : List (Byte × Bits), (∀ e ∈ ps, e ∈ leafPaths t []) ∧ ps.flatMap Prod.snd = bits ∧ ps.map Prod.fst = out := by
  induction out generalizing bits with
  | nil =>
    rcases walkBits_ok h with ⟨-, rfl, -⟩ | ⟨b, q, rest, out', -, -, -, hout, -⟩
    · exact ⟨[], nofun, rfl, rfl⟩
    · cases hout
  | cons b out ih =>
    rcases walkBits_ok h with ⟨-, -, hout⟩ | ⟨b, q, rest, out', hmem, -, rfl, hout, hrest⟩
    · cases hout
    · cases hout
      obtain ⟨ps, hps, rfl, rfl⟩ := ih hrest
      exact ⟨(b, q) :: ps, List.forall_mem_cons.2 ⟨hmem, hps⟩, rfl, rfl⟩

/-! ### UNPACK (R107) -/

/-- The meaningful bits of packed bytes, whose count is 1 to 8 for the last one (20_memory.md R53). -/
theorem packedAs_take {pk : Bytes} {e : Byte} (he : validEff e = true) :
    PackedAs pk e ((pk.flatMap byteBits).take (nbits pk.length e.toNat)) := by
  obtain ⟨h1, h8⟩ := (validEff_iff e).1 he
  have hlen : ((pk.flatMap byteBits).take (nbits pk.length e.toNat)).length = nbits pk.length e.toNat := by
    rw [List.length_take, flatMap_byteBits_length, nbits]
    split <;> omega
  exact ⟨he, hlen.symm, by rw [hlen]⟩

/-- UNPACK walks the meaningful bits; without a tree the walk fails at the first of them. -/
theorem unpack_of_packedAs {pk : Bytes} {e : Byte} {bits : Bits} (t : Tree) (h : PackedAs pk e bits) :
    unpack pk e t = walkBits t t true bits := by
  obtain ⟨he, hn, hbits⟩ := h
  rw [unpack, he]
  show (require (!(decide (0 < nbits pk.length e.toNat) && t == .absent)) _ >>= fun _ =>
    walkBits t t true ((pk.flatMap byteBits).take (nbits pk.length e.toNat))) = _
  rw [hn, hbits]
  cases bits with
  | nil => rfl
  | cons x bits => cases t <;> rfl

/-- UNPACK answers the symbols of the leaf paths that make up the meaningful bits, and nothing else (R107). -/
theorem unpack_ok_iff {pk : Bytes} {e : Byte} {t : Tree} (ht : t.isLeaf = false) {out : Bytes} :
    unpack pk e t = .ok out ↔ ∃ ps : List (Byte × Bits),
      (∀ p ∈ ps, p ∈ leafPaths t []) ∧ PackedAs pk e (ps.flatMap Prod.snd) ∧ ps.map Prod.fst = out := by
  constructor
  · intro h
    obtain ⟨_, he, -⟩ := (Except.bind_ok_iff _ _ _).1 h
    have hpacked := packedAs_take (pk := pk) ((require_ok_iff _ _ _).1 he)
    rw [unpack_of_packedAs t hpacked] at h
    obtain ⟨ps, hps, hbits, hout⟩ := paths_of_walkBits_ok h
    exact ⟨ps, hps, hbits ▸ hpacked, hout⟩
  · rintro ⟨ps, hps, hpacked, rfl⟩
    rw [unpack_of_packedAs t hpacked, walkBits_paths ht hps]

theorem unpack_malformed {pk : Bytes} {e : Byte} {t : Tree} (h : ∀ out, unpack pk e t ≠ .ok out) :
    unpack pk e t = .error .malformed := by
  cases hu : unpack pk e t with
  | ok out => exact absurd hu (h out)
  | error err => simpa using unpack_raises pk e t err hu

/-! ### Unpacking what was packed (R110) -/

/-- The codes of bytes that a table covers are entries of the table, whose bits are the code bits (R105). -/
theorem exists_entries_of_covers {c : CodeTable} {d : Bytes} (h : Covers c d) :
    ∃ ps : List (Byte × Bits), (∀ e ∈ ps, e ∈ c) ∧ ps.flatMap Prod.snd = bitsOf c d ∧ ps.map Prod.fst = d := by
  refine ⟨d.map (fun b => (b, (codeOf c b).getD [])), fun e he => ?_, List.flatMap_map _ _ _, by simp [Function.comp_def]⟩
  obtain ⟨b, hb, rfl⟩ := List.mem_map.1 he
  obtain ⟨code, hcode⟩ := Option.isSome_iff_exists.1 (h b hb)
  rw [hcode]
  exact mem_of_mapGet hcode

/-- Unpacking the code bits of bytes with the trie of the codes gives the bytes (R110). -/
theorem unpack_bitsOf {c : CodeTable} {t : Tree} {d pk : Bytes} {e : Byte} (hc : CtWf c) (ht : toTrie c = .ok t)
    (hd : Covers c d) (hpacked : PackedAs pk e (bitsOf c d)) : unpack pk e t = .ok d := by
  obtain ⟨ps, hps, hbits, hout⟩ := exists_entries_of_covers hd
  obtain ⟨hleaf, -, -⟩ := toTrie_wf hc ht
  have hpaths : ∀ p ∈ ps, p ∈ leafPaths t [] := fun p hp => (toTrie_leafPaths hc ht).mem_iff.2 (hps p hp)
  exact (unpack_ok_iff hleaf).2 ⟨ps, hpaths, hbits ▸ hpacked, hout⟩

/-- FREQ lists each byte once, in order, whatever the length of its input (R86). -/
theorem freqOf_ascending (d : Bytes) : Ascending (freqOf d) :=
  (foldl_bump_within (n := 0) (f := []) d .nil nofun).1

end Sys2Proof.Machine
end

section
/-! PROOFS. The statements about bit packing (42_bitpack.md R105 to R110). -/

namespace Sys2Proof.Proofs

open Sys2Proof Sys2Proof.Machine Sys2Proof.Certificates

/-- Settles O20: PACK leaves the packed form of the code bits (`pack_ok`), and the trie's leaf paths are the codes
(`unpack_bitsOf`). The input may have any length: its counts need no bound for the tree's codes to be a well-formed table. -/
theorem packThenUnpack : Obligations.PackThenUnpack := by
  intro d c t o e hcodes htrie hpack
  obtain ⟨htree, -⟩ := buildTree_grown (freqOf_ascending d)
  obtain ⟨hcover, hform⟩ := pack_ok hpack
  exact unpack_bitsOf (codesOf_wf htree hcodes).1 htrie hcover hform.packed

/-- Settles O17: PACK makes the packed form of the code bits (`pack_of_covers`), whose length decides between the two bounds. -/
theorem packWritesCodeBits : Obligations.PackWritesCodeBits := by
  refine ⟨rfl, fun s => ⟨fun hcover hfit => ?_, fun hcover hfull => ?_, fun hcover => ?_⟩⟩
  · obtain ⟨o, e, hform, hpack⟩ := pack_of_covers hcover
    have hlen := hform.length
    rw [if_pos (by omega)] at hpack
    have hregs := packRegs_of_pack hpack
    rw [if_pos (by omega)] at hregs
    exact ⟨o, e, exec_of_regs (i := .pack) rfl hregs, hform.packed, hform.zero, hlen, hform.whole⟩
  · refine (exec_eq_abort_iff (i := .pack) rfl).2 ?_
    obtain ⟨o, e, hform, hpack⟩ := pack_of_covers hcover
    have hlen := hform.length
    by_cases hmax : o.length ≤ Config.maxField
    · rw [if_pos hmax] at hpack
      exact (packRegs_of_pack hpack).trans (if_neg (by omega))
    · rw [if_neg hmax] at hpack
      exact packRegs_of_error hpack
  · exact (exec_eq_abort_iff (i := .pack) rfl).2 (packRegs_of_error (pack_of_not_covers hcover))

/-- Settles O18: PACK leaves the packed form of the code bits (`pack_ok`), whose padding is low in its last byte
(`PackedForm.padding`). -/
theorem packPaddingIsZero : Obligations.PackPaddingIsZero := by
  intro d c o e hpack
  obtain ⟨-, hform⟩ := pack_ok hpack
  obtain ⟨heff, hn, -⟩ := hform.packed
  exact ⟨(validEff_iff e).1 heff, fun x hx j hj => hform.padding hx hj, hn.trans List.length_flatMap⟩

/-- Settles O19: a walk succeeds exactly on leaf paths (`unpack_ok_iff`), and DOUT takes their symbols exactly where they fit. -/
theorem unpackDecodesLeafPaths : Obligations.UnpackDecodesLeafPaths := by
  refine ⟨rfl, fun s ht => ⟨fun ps hps hpacked => ?_, fun hno => ?_⟩⟩
  · have hregs : regsOf .unpack s = s.appendDout (ps.map Prod.fst) := by
      rw [regsOf, unpackRegs, (unpack_ok_iff ht).2 ⟨ps, hps, hpacked, rfl⟩]
      rfl
    rw [State.appendDout_eq, List.length_map] at hregs
    refine ⟨fun hfit => ?_, fun hfull => ?_⟩
    · rw [if_pos hfit] at hregs
      exact exec_of_regs rfl hregs
    · rw [if_neg (Nat.not_le_of_lt hfull)] at hregs
      exact (exec_eq_abort_iff rfl).2 hregs
  · have hmal : unpack s.pk s.eff s.tree = .error .malformed := unpack_malformed fun out hout => by
      obtain ⟨ps, hps, hpacked, -⟩ := (unpack_ok_iff ht).1 hout
      exact hno ⟨ps, hps, hpacked⟩
    exact (exec_eq_abort_iff (i := .unpack) rfl).2 (by rw [regsOf, unpackRegs, hmal]; rfl)

end Sys2Proof.Proofs
end

section
/-! PROOFS. The codes of a buffer's own tree, whatever the buffer's length: they cover its bytes, and their trie is the tree
(41_tree_codetable.md R86 to R93; 43_filecodec.md R114). -/

namespace Sys2Proof.Machine

open Sys2Proof.Certificates

/-- BUILD's leaves are the present bytes, each once, whatever their counts are (R87, R89). -/
theorem buildTree_symbols_perm_present (f : FreqTable) : (buildTree f).symbols.Perm ((present f).map Prod.fst) := by
  unfold buildTree
  match present f with
  | [] => exact .refl _
  | [(b, n)] => exact .refl _
  | e :: e' :: ps =>
    have hP : MergeStable (fun ts => (ts.flatMap Tree.symbols).Perm ((e :: e' :: ps).map Prod.fst)) :=
      ⟨fun hts h => (hts.flatMap_right _).symm.trans h, fun h => by simpa [Tree.symbols] using h⟩
    have hleaves : (((e :: e' :: ps).map fun x => Tree.leaf x.1).flatMap Tree.symbols).Perm
        ((e :: e' :: ps).map Prod.fst) := by
      rw [List.flatMap_map, List.map_eq_flatMap]
      exact .refl _
    have hlen := enqueueLeaves_length 0 (e :: e' :: ps) []
    have hqueue := hP.perm (enqueueLeaves_nodes 0 (e :: e' :: ps) []).symm (by simpa using hleaves)
    simpa using hP.mergeAll (List.ne_nil_of_length_eq_add_one hlen) hlen.le hqueue

theorem present_freqOf (d : Bytes) : present (freqOf d) = freqOf d := by
  obtain ⟨-, hpos⟩ := foldl_bump_within (n := 0) (f := []) d .nil nofun
  exact List.filter_eq_self.2 fun e he => decide_eq_true (hpos e he).1

/-- FREQ lists every byte of the buffer (R86). -/
theorem mem_keys_freqOf {d : Bytes} {b : Byte} (hb : b ∈ d) : b ∈ (freqOf d).map Prod.fst := by
  have hcount : 0 < countOf (freqOf d) b := countOf_freqOf d b ▸ List.count_pos_iff.2 hb
  refine mem_keys_iff.2 (Option.isSome_iff_ne_none.2 fun hnone => ?_)
  rw [countOf, hnone] at hcount
  exact Nat.lt_irrefl 0 hcount

/-- The codes of a buffer's tree cover the buffer, and TRIE makes the tree of them again (R91, R101, R114). -/
theorem codesOf_freqOf (d : Bytes) : ∃ c, codesOf (buildTree (freqOf d)) = .ok c ∧ CtWf c ∧ Covers c d ∧
    toTrie c = .ok (buildTree (freqOf d)) := by
  obtain ⟨hwf, -⟩ := buildTree_grown (freqOf_ascending d)
  have ⟨hleaf, hhollow, _⟩ := hwf
  have hsymbols := buildTree_symbols_perm_present (freqOf d)
  rw [present_freqOf] at hsymbols
  have hcodes := codesOf_eq hleaf
  have hc := (codesOf_wf hwf hcodes).1
  have hperm := addEntries_leafPaths_perm (hsymbols.nodup_iff.2 (freqOf_ascending d).keys_nodup)
  refine ⟨_, hcodes, hc, fun b hb => mem_keys_iff.1 ?_, toTrie_of_leafPaths hc hhollow hperm.symm⟩
  rw [(hperm.map Prod.fst).mem_iff, map_fst_leafPaths, hsymbols.mem_iff]
  exact mem_keys_freqOf hb

end Sys2Proof.Machine
end

section
/-! PROOFS. FENC and FDEC on their registers: FENC ends as PACK does with the codes of DIN's own tree, and FDEC unpacks with the
trie of CT (43_filecodec.md R114, R115). -/

namespace Sys2Proof.Machine

open Sys2Proof.Certificates

/-! ### Commands that succeed (10_state.md R24) -/

/-- A primitive command that leaves ERR = 0 computed its registers. -/
theorem regsOf_of_err_zero {i : Instr} {s t : State} (hi : primitive i = true) (h : exec i s = .next t) (herr : t.err = 0) :
    ∃ u, regsOf i s = .ok u ∧ t = u.succeed (opcode i) := by
  rw [exec_primitive hi, Host.Outcome.next.injEq] at h
  subst h
  rcases State.finish_cases (opcode i) (regsOf i s) s with ⟨u, hu, hfinish⟩ | ⟨e, -, hfinish⟩
  · exact ⟨u, hu, hfinish⟩
  · have hrange := errCode_range e
    rw [hfinish, State.err_abort] at herr
    rw [herr] at hrange
    exact absurd hrange.1 (by decide)

/-! ### FENC (R114) -/

/-- PACK's registers where every byte has a code: the packed form of the code bits, exactly where it fits (R106). -/
theorem packRegs_of_covers {s : State} (h : Covers s.ct s.din) :
    ∃ o e, PackedForm o e (bitsOf s.ct s.din) ∧ packRegs s =
      if PackFits s.cap s.ct s.din then .ok ((s.setPk o).setEff e) else .error .capacityExceeded := by
  obtain ⟨o, e, hform, hpack⟩ := pack_of_covers h
  have hlen := hform.length
  refine ⟨o, e, hform, ?_⟩
  by_cases hmax : o.length ≤ Config.maxField
  · rw [if_pos hmax] at hpack
    rw [packRegs_of_pack hpack]
    exact if_congr (by omega) rfl rfl
  · rw [if_neg hmax] at hpack
    rw [packRegs_of_error hpack, if_neg (by omega)]

/-- FENC is FREQ, BUILD and CODES on DIN's own counts, and then PACK. -/
theorem fencRegs_eq_packRegs {s : State} {c : CodeTable} (hc : codesOf (buildTree (freqOf s.din)) = .ok c) :
    fencRegs s = packRegs (((s.setFt (freqOf s.din)).setTree (buildTree (freqOf s.din))).setCt c) := by
  rw [fencRegs, hc]
  rfl

theorem pack_length_le {d o : Bytes} {c : CodeTable} {e : Byte} (h : pack d c = .ok (o, e)) :
    o.length ≤ Config.maxField := by
  obtain ⟨bits, -, h⟩ := (Except.bind_ok_iff _ _ _).1 h
  obtain ⟨_, hmax, h⟩ := (Except.bind_ok_iff _ _ _).1 h
  cases h
  exact of_decide_eq_true ((require_ok_iff ..).1 hmax)

/-! ### FDEC (R115) -/

/-- The code bits of the symbols of a table's entries are the entries' codes, one after another. -/
theorem bitsOf_map_fst {c : CodeTable} (hc : Ascending c) {ps : List (Byte × Bits)} (h : ∀ e ∈ ps, e ∈ c) :
    Covers c (ps.map Prod.fst) ∧ bitsOf c (ps.map Prod.fst) = ps.flatMap Prod.snd := by
  have hcode : ∀ e ∈ ps, codeOf c e.1 = some e.2 := fun e he => hc.mapGet_of_mem (h e he)
  refine ⟨List.forall_mem_map.2 fun e he => by rw [hcode e he]; rfl, ?_⟩
  rw [bitsOf, List.flatMap_map]
  exact List.flatMap_congr fun e he => by rw [hcode e he]; rfl

/-- With the trie of a table, UNPACK fails where the bits are the code bits of no bytes (R115). -/
theorem unpack_malformed_of_codes {c : CodeTable} {t : Tree} {pk : Bytes} {e : Byte} (hc : CtWf c) (ht : toTrie c = .ok t)
    (h : ¬ ∃ d : Bytes, Covers c d ∧ PackedAs pk e (bitsOf c d)) : unpack pk e t = .error .malformed := by
  obtain ⟨hleaf, -, -⟩ := toTrie_wf hc ht
  refine unpack_malformed fun out hout => ?_
  obtain ⟨ps, hps, hpacked, -⟩ := (unpack_ok_iff hleaf).1 hout
  obtain ⟨hcover, hbits⟩ := bitsOf_map_fst hc.1 fun p hp => (toTrie_leafPaths hc ht).mem_iff.1 (hps p hp)
  exact h ⟨_, hcover, hbits ▸ hpacked⟩

/-- FDEC's registers where the payload decodes: DOUT takes the bytes exactly where they fit. -/
theorem fdecRegs_of_unpack {s : State} {t : Tree} {d : Bytes} (ht : toTrie s.ct = .ok t)
    (hd : unpack s.pk s.eff t = .ok d) : fdecRegs s =
      if s.dout.length + d.length ≤ s.cap then .ok ((s.setDout (s.dout ++ d)).setTree t) else .error .capacityExceeded := by
  rw [fdecRegs, ht]
  show (do
    let o ← unpack s.pk s.eff t
    let s' ← s.appendDout o
    .ok (s'.setTree t)) = _
  rw [hd]
  show (do
    let s' ← s.appendDout d
    .ok (s'.setTree t)) = _
  rw [State.appendDout_eq]
  split <;> rfl

/-- A `to_trie` error comes before any of `unpack` (R115). -/
theorem fdecRegs_of_toTrie_error {s : State} {e : Err} (h : toTrie s.ct = .error e) : fdecRegs s = .error e := by
  rw [fdecRegs, h]
  rfl

theorem fdecRegs_of_unpack_error {s : State} {t : Tree} {e : Err} (ht : toTrie s.ct = .ok t)
    (h : unpack s.pk s.eff t = .error e) : fdecRegs s = .error e := by
  rw [fdecRegs, ht]
  show (unpack s.pk s.eff t >>= _) = _
  rw [h]
  rfl

end Sys2Proof.Machine
end

section
/-! PROOFS. PWR and PSKIP on the layout of a payload frame (43_filecodec.md R116, R117, R120, R121). -/

namespace Sys2Proof.Machine

open Sys2Proof.Certificates

/-! ### PWR (R116) -/

theorem frameWrite_badEff {pk : Bytes} {e : Byte} {c : CodeTable} (he : validEff e = false) :
    frameWrite pk e c = .error .malformed := by
  rw [frameWrite, he]
  rfl

theorem frameWrite_longPayload {pk : Bytes} {e : Byte} {c : CodeTable} (he : validEff e = true)
    (hlen : Config.maxField < pk.length) : frameWrite pk e c = .error .capacityExceeded := by
  rw [frameWrite, he, wrU32_eq, if_neg (Nat.not_le_of_lt hlen)]
  rfl

/-- DOUT takes the frame of PK, EFF and CT exactly where it fits (R117). -/
theorem pwrRegs_of_wf {s : State} (h : FrameWf ⟨s.ct, s.eff, s.pk⟩) :
    pwrRegs s = s.appendDout (frameBytesWith s.ct s.eff s.pk) := by
  rw [pwrRegs, frameWrite_of_wf h]
  rfl

theorem pwrRegs_of_error {s : State} {e : Err} (h : frameWrite s.pk s.eff s.ct = .error e) : pwrRegs s = .error e := by
  rw [pwrRegs, h]
  rfl

/-! ### Readers that answer the cursor alone -/

/-- The reader `skip` steps over the bytes `x`, whatever follows them, and ends in TruncatedStream where the stream ends
before `x` does. -/
def Skips (skip : Bytes → Nat → Except Err Nat) (x : Bytes) : Prop :=
  Parses (fun s p => do
    let q ← skip s p
    .ok ((), q)) x ()

namespace Skips

variable {α : Type} {rd : Bytes → Nat → Except Err (α × Nat)} {skip : Bytes → Nat → Except Err Nat} {x y : Bytes} {a : α}

theorem nil : Skips (fun _ p => .ok p) [] := .pure ()

/-- A field that is read, and then a part that is stepped over. -/
theorem field {f : Bytes → α × Nat → Except Err Nat} (hx : Parses rd x a) (hy : Skips (fun s q => f s (a, q)) y) :
    Skips (fun s p => rd s p >>= f s) (x ++ y) := by
  simpa only [Skips, bind_assoc] using
    hx.bind (f := fun s r => f s r >>= fun q => (.ok ((), q) : Except Err (Unit × Nat))) hy

/-- Two parts that are stepped over. -/
theorem append {f : Bytes → Nat → Except Err Nat} (hx : Skips skip x) (hy : Skips f y) :
    Skips (fun s p => skip s p >>= f s) (x ++ y) := by
  have h := field (f := fun s r => f s r.2) hx hy
  simp only [bind_assoc] at h
  exact h

theorem whole {s z : Bytes} {p : Nat} (hx : Skips skip x) (h : RestAt s p (x ++ z)) : skip s p = .ok (p + x.length) := by
  obtain ⟨q, hq, heq⟩ := (Except.bind_ok_iff _ _ _).1 (Parses.whole hx h)
  cases heq
  exact hq

theorem cut {s : Bytes} {p k : Nat} (hx : Skips skip x) (hk : k < x.length) (h : RestAt s p (x.take k)) :
    skip s p = .error .truncatedStream :=
  bind_ok_eq_error_iff.1 (Parses.cut hx hk h)

end Skips

/-! ### PSKIP (R120) -/

/-- A table entry of a frame whose units are any bytes of the length the entry gives. -/
def rawCodeEntryBytes (e : Byte × Bytes) : Bytes := [e.1] ++ u32 (e.2.length / 2) ++ e.2

/-- Whole units whose number fits its field (30_encoding.md R77). -/
def UnitsFit (es : List (Byte × Bytes)) : Prop := ∀ e ∈ es, e.2.length % 2 = 0 ∧ e.2.length / 2 < 2 ^ 32

theorem rawFrameBytes_eq (f : RawFrame) : rawFrameBytes f =
    u32 f.packed.length ++ ([f.eff] ++ (u32 f.entries.length ++ (f.entries.flatMap rawCodeEntryBytes ++ f.packed))) := by
  have hentry : rawCodeEntryBytes = fun e => [e.1] ++ u32 (e.2.length / 2) ++ e.2 := rfl
  rw [rawFrameBytes, hentry]
  simp only [List.append_assoc]

theorem skipEntries_skips {es : List (Byte × Bytes)} (h : UnitsFit es) :
    Skips (skipEntries es.length) (es.flatMap rawCodeEntryBytes) := by
  induction es with
  | nil => exact .nil
  | cons e es ih =>
    obtain ⟨⟨heven, hlen⟩, hes⟩ := List.forall_mem_cons.1 h
    rw [List.flatMap_cons, rawCodeEntryBytes, List.append_assoc, List.append_assoc]
    refine .field (rdU8_parses e.1) (.field (rdU32_parses hlen) ?_)
    exact .field (rdBytes_parses (by omega)) (ih hes)

/-- PSKIP steps over a frame whatever its unread fields hold (R120). -/
theorem frameSkip_skips {f : RawFrame} (h : f.Fits) : Skips frameSkip (rawFrameBytes f) := by
  obtain ⟨hpacked, hcount, hentries⟩ := h
  rw [rawFrameBytes_eq]
  refine .field (rdU32_parses hpacked) (.field (rdU8_parses f.eff) (.field (rdU32_parses hcount) ?_))
  refine .append (skipEntries_skips hentries) ?_
  have hend := Skips.field (f := fun _ r => .ok r.2) (rdBytes_parses (x := f.packed) rfl) .nil
  rwa [List.append_nil] at hend

theorem rdU32_lt {s : Bytes} {p p' v : Nat} (h : rdU32 s p = .ok (v, p')) : v < 2 ^ 32 := (rdUInt_spans h).2

theorem skipEntries_spans {n p p' : Nat} {s : Bytes} (hp : p ≤ s.length) (h : skipEntries n s p = .ok p') :
    ∃ es, es.length = n ∧ UnitsFit es ∧ Spans s p p' (es.flatMap rawCodeEntryBytes) := by
  induction n generalizing p with
  | zero => cases h; exact ⟨[], rfl, nofun, .nil hp⟩
  | succ n ih =>
    obtain ⟨⟨b, p1⟩, hb, h⟩ := (Except.bind_ok_iff _ _ _).1 h
    obtain ⟨⟨len, p2⟩, hlen, h⟩ := (Except.bind_ok_iff _ _ _).1 h
    obtain ⟨⟨units, p3⟩, hunits, h⟩ := (Except.bind_ok_iff _ _ _).1 h
    obtain ⟨hspan, hlength⟩ := rdBytes_spans hunits
    obtain ⟨es, rfl, hes, hrest⟩ := ih hspan.le h
    have heven : units.length % 2 = 0 := by omega
    have hhalf : units.length / 2 = len := by omega
    have hentry : Spans s p p3 (rawCodeEntryBytes (b, units)) := by
      rw [rawCodeEntryBytes, hhalf]
      exact ((rdU8_spans hb).append (rdU32_spans hlen)).append hspan
    exact ⟨(b, units) :: es, rfl, List.forall_mem_cons.2 ⟨⟨heven, hhalf ▸ rdU32_lt hlen⟩, hes⟩, hentry.append hrest⟩

/-- PSKIP steps over nothing but a frame's layout (R120). -/
theorem frameSkip_spans {s : Bytes} {p p' : Nat} (h : frameSkip s p = .ok p') :
    ∃ f : RawFrame, f.Fits ∧ Spans s p p' (rawFrameBytes f) := by
  obtain ⟨⟨len, p1⟩, hlen, h⟩ := (Except.bind_ok_iff _ _ _).1 h
  obtain ⟨⟨e, p2⟩, he, h⟩ := (Except.bind_ok_iff _ _ _).1 h
  obtain ⟨⟨n, p3⟩, hn, h⟩ := (Except.bind_ok_iff _ _ _).1 h
  obtain ⟨p4, hentries, h⟩ := (Except.bind_ok_iff _ _ _).1 h
  obtain ⟨⟨pk, p5⟩, hpk, h⟩ := (Except.bind_ok_iff _ _ _).1 h
  cases h
  obtain ⟨es, rfl, hes, htable⟩ := skipEntries_spans (rdU32_spans hn).le hentries
  obtain ⟨hpacked, rfl⟩ := rdBytes_spans hpk
  refine ⟨⟨e, es, pk⟩, ⟨rdU32_lt hlen, rdU32_lt hn, hes⟩, ?_⟩
  rw [rawFrameBytes_eq]
  exact (rdU32_spans hlen).append ((rdU8_spans he).append ((rdU32_spans hn).append (htable.append hpacked)))

theorem exec_pskip_of_ok {s : State} {p : Nat} (h : frameSkip s.din s.pos = .ok p) :
    exec .pskip s = .next ((s.setPos p).succeed 0x0D#8) :=
  exec_of_regs (i := .pskip) rfl (by rw [regsOf, pskipRegs, h]; rfl)

theorem exec_pskip_abort_iff {s : State} {e : Err} :
    exec .pskip s = .next (s.abort 0x0D#8 e) ↔ frameSkip s.din s.pos = .error e :=
  (exec_eq_abort_iff (i := .pskip) rfl).trans bind_ok_eq_error_iff

/-! ### A frame HCT writes, as one whose fields are not read -/

/-- The same frame with its codes as the bytes of their units. -/
def Frame.raw (f : Frame) : RawFrame := ⟨f.eff, f.table.map (fun e => (e.1, unitBytes e.2)), f.packed⟩

theorem Frame.rawFrameBytes_raw (f : Frame) : rawFrameBytes f.raw = frameBytes f := by
  have hentry : codeEntryBytes = fun e => [e.1] ++ u32 e.2.length ++ unitBytes e.2 := rfl
  simp [rawFrameBytes, Frame.raw, frameBytes, frameBytesWith, tableBytes, List.flatMap_map, hentry]

theorem Frame.raw_fits {f : Frame} (h : FrameWf f) : f.raw.Fits := by
  obtain ⟨hc, -, hpacked⟩ := h
  refine ⟨hpacked.trans_lt (by decide), ?_, List.forall_mem_map.2 fun e he => ?_⟩
  · rw [Frame.raw, List.length_map]
    exact hc.1.length_le.trans_lt (by decide)
  · have hmax : e.2.length ≤ 255 := (hc.2 e he).2
    simp only [unitBytes_length]
    omega

end Sys2Proof.Machine
end

section
/-! PROOFS. What FENC leaves in the registers is what FDEC decodes, and PWR and PRD carry it over (43_filecodec.md R123). -/

namespace Sys2Proof.Machine

open Sys2Proof.Certificates

/-- The registers hold `d` as a payload frame's fields, and TREE is the trie of CT. -/
def State.Encodes (s : State) (d : Bytes) : Prop := toTrie s.ct = .ok s.tree ∧ Decodes ⟨s.ct, s.eff, s.pk⟩ d

/-- A FENC that succeeds leaves its input in the registers (R114). -/
theorem exec_fenc_encodes {s t : State} (h : exec .fenc s = .next t) (herr : t.err = 0) :
    t.Encodes s.din ∧ t.din = s.din := by
  obtain ⟨u, hu, rfl⟩ := regsOf_of_err_zero rfl h herr
  refine ⟨?_, (regsOf_keeps hu).din⟩
  obtain ⟨c, o, e, hcodes, hpack, -, rfl⟩ := fencRegs_ok hu
  obtain ⟨c', hcodes', hc, -, htrie⟩ := codesOf_freqOf s.din
  obtain rfl : c' = c := Except.ok.inj (hcodes'.symm.trans hcodes)
  obtain ⟨hcover, hform⟩ := pack_ok hpack
  have hprefix : PrefixFree c' := (toTrie_ok_iff hc).1 ⟨_, htrie⟩
  exact ⟨htrie, ⟨hc, hform.packed.1, pack_length_le hpack⟩, hprefix, hcover, hform.packed⟩

namespace State.Encodes

variable {s t : State} {d pre : Bytes}

/-- FDEC appends the bytes the registers hold, and TREE stays the trie of CT (R115). -/
theorem exec_fdec (h : s.Encodes d) (hfit : s.dout.length + d.length ≤ s.cap) :
    exec .fdec s = .next ((s.setDout (s.dout ++ d)).succeed 0x0A#8) := by
  obtain ⟨htrie, ⟨hc, -⟩, -, hcover, hpacked⟩ := h
  exact exec_of_regs (i := .fdec) rfl
    ((fdecRegs_of_unpack htrie (unpack_bitsOf hc htrie hcover hpacked)).trans (if_pos hfit))

/-- A PWR that succeeds appends the frame of these registers (R117). -/
theorem exec_pwr_ok (h : s.Encodes d) (hpwr : exec .pwr s = .next t) (herr : t.err = 0) :
    t = (s.setDout (s.dout ++ frameBytesWith s.ct s.eff s.pk)).succeed 0x0B#8 := by
  obtain ⟨-, hwf, -⟩ := h
  obtain ⟨u, hu, rfl⟩ := regsOf_of_err_zero rfl hpwr herr
  obtain ⟨-, rfl⟩ := State.appendDout_ok ((pwrRegs_of_wf hwf).symm.trans hu)
  rfl

/-- A PRD of the frame of these registers at the end of DIN leaves them as they are (R119). -/
theorem exec_prd (h : s.Encodes d) (hdin : s.din = pre ++ frameBytesWith s.ct s.eff s.pk) (hpos : s.pos = pre.length) :
    exec .prd s = .next ((s.setPos s.din.length).succeed 0x0C#8) := by
  obtain ⟨-, hwf, -⟩ := h
  have hrest : RestAt s.din s.pos (frameBytesWith s.ct s.eff s.pk ++ []) := ⟨pre, by rw [List.append_nil, hdin], hpos.symm⟩
  have hread := (frameRead_parses hwf (.refl _)).whole hrest
  rw [hrest.length, List.append_nil]
  exact exec_prd_of_ok hread

end State.Encodes

end Sys2Proof.Machine
end

section
/-! PROOFS. The statements about the file codec (43_filecodec.md R114 to R124). -/

namespace Sys2Proof.Proofs

open Sys2Proof Sys2Proof.Machine Sys2Proof.Certificates

/-- Settles O21: the codes of DIN's own tree cover DIN (`codesOf_freqOf`), so FENC ends as PACK does with every byte known
(`packRegs_of_covers`). -/
theorem fencEncodesDin : Obligations.FencEncodesDin := by
  refine ⟨rfl, fun s => ?_⟩
  obtain ⟨c, hcodes, -, hcover, -⟩ := codesOf_freqOf s.din
  obtain ⟨o, e, hform, hregs⟩ :=
    packRegs_of_covers (s := ((s.setFt (freqOf s.din)).setTree (buildTree (freqOf s.din))).setCt c) hcover
  rw [← fencRegs_eq_packRegs hcodes] at hregs
  refine ⟨c, hcodes, hcover, fun hfit => ⟨o, e, ?_, hform.packed, hform.zero, fun hnil => hform.whole ?_⟩, fun hfull => ?_⟩
  · exact exec_of_regs (i := .fenc) rfl (hregs.trans (if_pos hfit))
  · rw [State.setCt_din, State.setTree_din, State.setFt_din, hnil]
    rfl
  · exact (exec_eq_abort_iff (i := .fenc) rfl).2 (hregs.trans (if_neg hfull))

/-- Settles O22: the trie exists exactly where no code begins with another (`toTrie_ok_iff`), UNPACK with it decodes
code bits (`unpack_bitsOf`), and it decodes nothing else (`unpack_malformed_of_codes`). -/
theorem fdecDecodesPayload : Obligations.FdecDecodesPayload := by
  refine ⟨rfl, fun s hc => ⟨fun d hp hcover hpacked => ?_, fun hp => ?_, fun hno => ?_⟩⟩
  · obtain ⟨t, ht⟩ := (toTrie_ok_iff hc).2 hp
    have hregs := fdecRegs_of_unpack ht (unpack_bitsOf hc ht hcover hpacked)
    refine ⟨fun hfit => ⟨t, ht, exec_of_regs (i := .fdec) rfl (hregs.trans (if_pos hfit))⟩, fun hfull => ?_⟩
    exact (exec_eq_abort_iff (i := .fdec) rfl).2 (hregs.trans (if_neg (Nat.not_le_of_lt hfull)))
  · exact (exec_eq_abort_iff (i := .fdec) rfl).2 (fdecRegs_of_toTrie_error (toTrie_malformed hc hp))
  · refine (exec_eq_abort_iff (i := .fdec) rfl).2 ?_
    by_cases hp : PrefixFree s.ct
    · obtain ⟨t, ht⟩ := (toTrie_ok_iff hc).2 hp
      exact fdecRegs_of_unpack_error ht (unpack_malformed_of_codes hc ht hno)
    · exact fdecRegs_of_toTrie_error (toTrie_malformed hc hp)

/-- Settles O24: PWR writes the frame's layout (`pwrRegs_of_wf`), DOUT takes it exactly where it fits, and the checks on EFF and
payloadLength come before. -/
theorem pwrAppendsFrame : Obligations.PwrAppendsFrame := by
  refine ⟨rfl, fun s hc => ⟨fun heff hlen hfit => ?_, fun heff => ?_, fun heff hlong => ?_⟩⟩
  · have hregs := pwrRegs_of_wf (s := s) ⟨hc, heff, hlen⟩
    rw [State.appendDout_eq, if_pos hfit] at hregs
    exact exec_of_regs (i := .pwr) rfl hregs
  · exact (exec_eq_abort_iff (i := .pwr) rfl).2 (pwrRegs_of_error (frameWrite_badEff heff))
  · refine (exec_eq_abort_iff (i := .pwr) rfl).2 ?_
    by_cases hlen : s.pk.length ≤ Config.maxField
    · have hfull := hlong.resolve_left (Nat.not_lt_of_le hlen)
      have hregs := pwrRegs_of_wf (s := s) ⟨hc, heff, hlen⟩
      rwa [State.appendDout_eq, if_neg (Nat.not_le_of_lt hfull)] at hregs
    · exact pwrRegs_of_error (frameWrite_longPayload heff (Nat.lt_of_not_le hlen))

/-- Settles O26: PSKIP steps over a frame's layout, its entries one after another (`frameSkip_skips`), and over nothing else
(`frameSkip_spans`). -/
theorem pskipSkipsFrame : Obligations.PskipSkipsFrame := by
  refine ⟨fun s f pre r hf hdin hpos => ?_, fun s => ?_, fun s f pre k hf hk hdin hpos => ?_⟩
  · have h : RestAt s.din s.pos (rawFrameBytes f ++ r) := ⟨pre, by rw [hdin, List.append_assoc], hpos.symm⟩
    exact hpos ▸ exec_pskip_of_ok ((frameSkip_skips hf).whole h)
  · cases h : frameSkip s.din s.pos with
    | ok p =>
      obtain ⟨f, hf, hspan⟩ := frameSkip_spans h
      obtain ⟨pre, r, hsplit⟩ := hspan.split
      exact .inl ⟨f, pre, r, hf, hsplit⟩
    | error e =>
      obtain rfl : e = .truncatedStream := by simpa using frameSkip_raises s.din s.pos e h
      exact .inr (exec_pskip_abort_iff.2 h)
  · exact exec_pskip_abort_iff.2 ((frameSkip_skips hf).cut hk ⟨pre, hdin, hpos.symm⟩)

/-- Settles O27: PWR's bytes are a frame's layout, which PRD reads (`frameRead_parses`) and PSKIP steps over
(`frameSkip_skips`), whatever follows. -/
theorem frameRoundTrip : Obligations.FrameRoundTrip := by
  intro f r hf
  have h : RestAt (frameBytes f ++ r) 0 (frameBytes f ++ r) := ⟨[], rfl, rfl⟩
  have hread := (frameRead_parses hf (.refl f.table)).whole h
  have hskip := frameSkip_skips (Frame.raw_fits hf)
  rw [Frame.rawFrameBytes_raw] at hskip
  have hskip := hskip.whole h
  rw [Nat.zero_add] at hread hskip
  exact ⟨frameBytes f, frameWrite_of_wf hf, hread, hskip⟩

/-- Settles O23: FENC leaves registers that hold DIN (`exec_fenc_encodes`); PWR and PRD pass them on as one frame and change none
of them (`State.Encodes.exec_pwr_ok`, `State.Encodes.exec_prd`), so FDEC decodes them either way. -/
theorem fencThenFdecRestores : Obligations.FencThenFdecRestores := by
  intro s s1 hfenc herr1
  obtain ⟨henc, hdin⟩ := exec_fenc_encodes hfenc herr1
  refine ⟨fun hfit => henc.exec_fdec (hdin ▸ hfit), ?_⟩
  intro s2 hpwr herr2 s3 hs3
  obtain rfl := henc.exec_pwr_ok hpwr herr2
  have henc3 : s3.Encodes s.din := hs3 ▸ henc
  have hprd := henc3.exec_prd (pre := s1.dout) (by rw [hs3]; rfl) (by rw [hs3])
  have henc4 : ((s3.setPos s3.din.length).succeed 0x0C#8).Encodes s.din := henc3
  refine ⟨?_, fun s4 hs4 hfit => ?_⟩
  · rw [hprd, hs3]
  · obtain rfl := Host.Outcome.next.inj (hprd.symm.trans hs4)
    exact henc4.exec_fdec hfit

end Sys2Proof.Proofs
end

section
/-! PROOFS. The segments of a path: a path splits at its last SEP into its parent and its last segment, and is valid where its
segments are (44_container.md R131, R132). -/

namespace Sys2Proof.Machine

/-- Splitting at SEP is the library's, which joining with SEP undoes (R131). -/
theorem segments_eq_splitOn (q : Bytes) : segments q = q.splitOn Config.sep := by
  induction q with
  | nil => rfl
  | cons c cs ih =>
    rw [segments, List.splitOn_cons_eq_if_modifyHead, ← ih]
    cases hs : segments cs with
    | nil => exact absurd (ih.symm.trans hs) (List.splitOn_ne_nil _ _)
    | cons seg rest => simp

theorem sep_notMem_of_mem_segments {q x : Bytes} (hx : x ∈ segments q) : Config.sep ∉ x := by
  rw [segments_eq_splitOn] at hx
  induction q generalizing x with
  | nil => simp_all
  | cons c cs ih =>
    rw [List.splitOn_cons_eq_if_modifyHead] at hx
    obtain ⟨seg, rest, hsegs⟩ := List.exists_cons_of_ne_nil (List.splitOn_ne_nil Config.sep cs)
    simp only [hsegs, List.mem_cons, List.modifyHead_cons] at ih hx
    split at hx
    · rcases List.mem_cons.1 hx with rfl | hx
      · exact List.not_mem_nil
      · exact ih (List.mem_cons.1 hx)
    · next hc =>
      rcases List.mem_cons.1 hx with rfl | hx
      · exact List.not_mem_cons_of_ne_of_not_mem (fun h => hc (beq_iff_eq.2 h.symm)) (ih (.inl rfl))
      · exact ih (.inr hx)

/-! ### The last SEP of a path (R132) -/

theorem exists_last_sep {q : Bytes} (h : Config.sep ∈ q) :
    ∃ p l, q = p ++ [Config.sep] ++ l ∧ Config.sep ∉ l := by
  obtain ⟨l, p, hq, hl⟩ := List.eq_append_cons_of_mem (List.mem_reverse.2 h)
  refine ⟨p.reverse, l.reverse, ?_, mt List.mem_reverse.1 hl⟩
  rw [← List.reverse_reverse q, hq]
  simp

theorem segments_of_sep_notMem {q : Bytes} (h : Config.sep ∉ q) : segments q = [q] := by
  rw [segments_eq_splitOn, List.splitOn_eq_singleton h]

theorem segments_append_last {p l : Bytes} (h : Config.sep ∉ l) : segments (p ++ [Config.sep] ++ l) = segments p ++ [l] := by
  rw [← segments_of_sep_notMem h, List.append_assoc]
  simp only [segments_eq_splitOn]
  exact List.splitOn_append_cons_self p l

theorem lastSeg_append_last {p l : Bytes} (h : Config.sep ∉ l) : lastSeg (p ++ [Config.sep] ++ l) = l := by
  rw [lastSeg, segments_append_last h, List.getLastD_concat]

theorem parent_append_last {p l : Bytes} (h : Config.sep ∉ l) : parent (p ++ [Config.sep] ++ l) = p := by
  have hlen : (p ++ [Config.sep] ++ l).length - (l.length + 1) = p.length := by simp
  rw [parent, lastSeg_append_last h, hlen, List.append_assoc, List.take_left]

theorem lastSeg_of_sep_notMem {q : Bytes} (h : Config.sep ∉ q) : lastSeg q = q := by
  rw [lastSeg, segments_of_sep_notMem h]
  rfl

theorem parent_of_sep_notMem {q : Bytes} (h : Config.sep ∉ q) : parent q = [] := by
  rw [parent, lastSeg_of_sep_notMem h, Nat.sub_eq_zero_of_le (Nat.le_succ _), List.take_zero]

/-! ### Valid paths (R131) -/

theorem validSegment_iff {x : Bytes} : validSegment x = true ↔ x ≠ [] ∧ x ≠ [0x2E#8] ∧ x ≠ [0x2E#8, 0x2E#8] := by
  simp [validSegment, Config.dot, and_assoc]

/-- The empty path needs no check of its own: its one segment is empty. -/
theorem validPath_iff {q : Bytes} : validPath q = true ↔ ∀ x ∈ segments q, validSegment x = true := by
  simp only [validPath, Bool.and_eq_true, List.all_eq_true, and_iff_right_iff_imp, bne_iff_ne]
  rintro h rfl
  exact absurd (h [] List.mem_cons_self) (by decide)

theorem validPath_parent {q : Bytes} (h : validPath q = true) (hp : parent q ≠ []) : validPath (parent q) = true := by
  by_cases hsep : Config.sep ∈ q
  · obtain ⟨p, l, rfl, hl⟩ := exists_last_sep hsep
    rw [validPath_iff, segments_append_last hl] at h
    rw [parent_append_last hl, validPath_iff]
    exact fun x hx => h x (List.mem_append_left _ hx)
  · exact absurd (parent_of_sep_notMem hsep) hp

end Sys2Proof.Machine
end

section
/-! PROOFS. EWR as a command: it appends the layout of its entry, or ends with the error of the frame (44_container.md R126,
R127). -/

namespace Sys2Proof.Machine

open Sys2Proof.Certificates

/-- A command whose registers are those of an append, where it fits. -/
theorem exec_append_of_le {i : Instr} {s : State} {o : Bytes} (hi : primitive i = true) (h : regsOf i s = s.appendDout o)
    (hfit : s.dout.length + o.length ≤ s.cap) : exec i s = .next ((s.setDout (s.dout ++ o)).succeed (opcode i)) :=
  exec_of_regs hi (by rw [h, State.appendDout_eq, if_pos hfit])

/-- The same where it does not fit (10_state.md R32). -/
theorem exec_append_of_lt {i : Instr} {s : State} {o : Bytes} (hi : primitive i = true) (h : regsOf i s = s.appendDout o)
    (hfull : s.cap < s.dout.length + o.length) : exec i s = .next (s.abort (opcode i) .capacityExceeded) :=
  (exec_eq_abort_iff hi).2 (by rw [h, State.appendDout_eq, if_neg (Nat.not_le_of_lt hfull)])

variable {s : State}

theorem ewrDirRegs_of_le (hn : s.name.length ≤ Config.maxStr) : ewrDirRegs s = s.appendDout (dirBytes s.name) := by
  rw [ewrDirRegs, dirEntry_of_le hn]
  rfl

theorem ewrFileRegs_of_wf (hn : s.name.length ≤ Config.maxStr) (hf : FrameWf ⟨s.ct, s.eff, s.pk⟩) :
    ewrFileRegs s = s.appendDout (fileBytes s.name ⟨s.ct, s.eff, s.pk⟩) := by
  rw [ewrFileRegs, fileEntry_of_wf hn hf]
  rfl

/-- A file entry whose frame cannot be written raises what PWR raises (R126). -/
theorem ewrFileRegs_of_error {e : Err} (hn : s.name.length ≤ Config.maxStr)
    (he : frameWrite s.pk s.eff s.ct = .error e) : ewrFileRegs s = .error e := by
  rw [ewrFileRegs, fileEntry, wrStr_of_le hn, he]
  rfl

end Sys2Proof.Machine
end

section
/-! PROOFS. Entries read back one after another (44_container.md R128, R134). -/

namespace Sys2Proof.Machine

open Sys2Proof.Certificates

theorem entryBytes_pos {e : Entry Frame} (he : EntryFits e) : 0 < (entryBytes e).length := by
  cases e with
  | stop => exact he.elim
  | dir q => rw [entryBytes, dirBytes_length]; omega
  | file q f => rw [entryBytes, fileBytes_length]; omega

/-- An entry EWR may write is read back, whatever follows it. -/
theorem entryRead_entryBytes {s y : Bytes} {p : Nat} {e : Entry Frame} (he : EntryFits e)
    (h : RestAt s p (entryBytes e ++ y)) : entryRead s p = .ok (e, p + (entryBytes e).length) := by
  have hpos := entryBytes_pos he
  cases e with
  | stop => exact he.elim
  | dir q => exact entryRead_whole (rdTagged_dir_parses he) hpos h
  | file q f =>
    obtain ⟨hq, hf⟩ := he
    exact entryRead_whole (rdTagged_file_parses hq hf (.refl f.table)) hpos h

theorem readsAs_entryBytes {s : Bytes} {p : Nat} {es : List (Entry Frame)} (hes : ∀ e ∈ es, EntryFits e)
    (h : RestAt s p (es.flatMap entryBytes)) : ReadsAs s es p := by
  induction es generalizing p with
  | nil =>
    obtain rfl : s.length = p := h.length
    exact entryRead_end s
  | cons e es ih =>
    obtain ⟨he, hes⟩ := List.forall_mem_cons.1 hes
    exact ⟨_, entryRead_entryBytes he h, ih hes h.tail⟩

end Sys2Proof.Machine
end

section
/-! PROOFS. Reading a folder archive's header (45_archive_header.md R135, R136, R140). -/

namespace Sys2Proof.Machine

open Sys2Proof.Certificates

theorem headerBytes_eq (fold : Bool) (name : Bytes) : headerBytes fold name = signature fold ++ strBytes name := by
  cases fold <;> rfl

theorem signature_length (fold : Bool) : (signature fold).length = 5 := by
  cases fold <;> rfl

/-- A header's layout is read, whatever follows it (R136). -/
theorem headerRead_whole {s name y : Bytes} {p : Nat} {fold : Bool} (hn : name.length ≤ Config.maxStr)
    (h : RestAt s p (headerBytes fold name ++ y)) :
    headerRead s p fold = .ok (name, p + (headerBytes fold name).length) := by
  rw [headerBytes_eq, List.append_assoc] at h
  obtain ⟨hle, hsig, -⟩ := (rdBytes_ok_iff ..).1 ((rdBytes_parses (signature_length fold)).whole h)
  have hname := (rdStr_parses hn).whole h.tail
  rw [signature_length, Nat.add_assoc, ← signature_length fold, ← List.length_append, ← headerBytes_eq] at hname
  refine (Except.bind_ok_iff _ _ _).2 ⟨(), (require_ok_iff ..).2 ?_, signature_length fold ▸ hname⟩
  rw [decide_eq_true hle, ← hsig, beq_self_eq_true]
  rfl

/-- HRD reads nothing but a header's layout (R136). -/
theorem headerRead_spans {s name : Bytes} {p p' : Nat} {fold : Bool} (h : headerRead s p fold = .ok (name, p')) :
    Spans s p p' (headerBytes fold name) := by
  obtain ⟨_, hsig, h⟩ := (Except.bind_ok_iff _ _ _).1 h
  simp only [require_ok_iff, Bool.and_eq_true, decide_eq_true_eq, beq_iff_eq] at hsig
  obtain ⟨hspan, -⟩ := rdBytes_spans ((rdBytes_ok_iff 5 s p _ _).2 ⟨hsig.1, rfl, rfl⟩)
  rw [hsig.2] at hspan
  exact headerBytes_eq fold name ▸ hspan.append (rdStr_spans h)

theorem openFolder_of_header {a root y : Bytes} (hv : validName root = true) (hn : root.length ≤ Config.maxStr)
    (h : a = headerBytes true root ++ y) : openFolder a = .ok (root, (headerBytes true root).length) := by
  have hrest : RestAt a 0 (headerBytes true root ++ y) := ⟨[], h, rfl⟩
  have hread := headerRead_whole hn hrest
  rw [Nat.zero_add] at hread
  exact (Except.bind_ok_iff _ _ _).2 ⟨_, hread, (Except.bind_ok_iff _ _ _).2 ⟨(), (require_ok_iff ..).2 hv, rfl⟩⟩

/-- A header DDIR accepts names a valid root, and its layout is what the archive starts with (R140). -/
theorem openFolder_ok {a root : Bytes} {p : Nat} (h : openFolder a = .ok (root, p)) :
    validName root = true ∧ ∃ rest, a = headerBytes true root ++ rest ∧ p = a.length - rest.length := by
  obtain ⟨⟨root', p'⟩, hread, h⟩ := (Except.bind_ok_iff _ _ _).1 h
  obtain ⟨_, hv, h⟩ := (Except.bind_ok_iff _ _ _).1 h
  cases h
  obtain ⟨hp, rest, hrest⟩ := headerRead_spans hread
  have hlen := hrest.length
  rw [List.length_append] at hlen
  exact ⟨(require_ok_iff ..).1 hv, rest, hrest.drop.symm ▸ (List.drop_zero).symm, by omega⟩

end Sys2Proof.Machine
end

section
/-! PROOFS. DDIR's loop as what it does for one entry and what it does after (46_operations.md R150, R151). -/

namespace Sys2Proof.Machine

open Sys2Proof.Certificates

/-- What DDIR does for one entry before it reads the next (R150); `applyEntries_succ` ties it to `applyEntries`. -/
def applyEntry (cap : Nat) (base : Bytes) : Entry Frame → Act Unit
  | .stop => Act.pure ()
  | .dir q => if validPath q then mkdirs (join base q) else Act.raise .malformed
  | .file q f => if validPath q then applyFile cap base q f else Act.raise .malformed

theorem applyEntries_succ (cap : Nat) (base a : Bytes) (fuel p : Nat) :
    applyEntries cap base a (fuel + 1) p = (Act.lift (entryRead a p)).bind fun ep =>
      if ep.1 = .stop then Act.pure ()
      else (applyEntry cap base ep.1).bind fun _ => applyEntries cap base a fuel ep.2 := by
  rw [applyEntries]
  congr 1
  funext ⟨e, p'⟩
  cases e with
  | stop => rfl
  | dir q | file q f =>
    simp only [reduceCtorEq, if_false, applyEntry]
    split <;> rfl

theorem Act.lift_ok_bind {α β : Type} (a : α) (f : α → Act β) : (Act.lift (.ok a)).bind f = f a := rfl

theorem Act.lift_error_bind {α β : Type} (e : Err) (f : α → Act β) : (Act.lift (.error e)).bind f = Act.raise e := rfl

section

variable {cap fuel p p' : Nat} {base a : Bytes}

theorem applyEntries_of_read {e : Entry Frame} (h : entryRead a p = .ok (e, p')) (hne : e ≠ .stop) :
    applyEntries cap base a (fuel + 1) p = (applyEntry cap base e).bind fun _ => applyEntries cap base a fuel p' := by
  rw [applyEntries_succ, h, Act.lift_ok_bind, if_neg hne]

/-- An entry that fails before its requests ends the loop there. -/
theorem applyEntries_of_entryError {err : Err} (h : entryError cap a p = some err) :
    applyEntries cap base a (fuel + 1) p = Act.raise err := by
  unfold entryError at h
  split at h
  · next e hread =>
    cases h
    rw [applyEntries_succ, hread, Act.lift_error_bind]
  · cases h
  · next q p' hread =>
    rw [Option.ite_none_left_eq_some] at h
    obtain ⟨hv, he⟩ := h
    cases he
    rw [applyEntries_of_read hread (by simp), applyEntry, if_neg hv]
    rfl
  · next q f p' hread =>
    rw [applyEntries_of_read hread (by simp), applyEntry]
    split at h
    · next hv =>
      split at h
      · next e hdec =>
        cases h
        rw [if_pos hv, applyFile, hdec]
        rfl
      · cases h
    · next hv =>
      cases h
      rw [if_neg hv]
      rfl

end

end Sys2Proof.Machine
end

section
/-! PROOFS. The requests DDIR can make on any host: after its H_READ, the root directory and then paths under it
(44_container.md R131; 46_operations.md R150 to R152). -/

namespace Sys2Proof.Machine

open Sys2Proof.Certificates

/-- A program whose history is in `P` extends any history before it by one in `P`. -/
theorem Runs.after {α : Type} {x : Act α} {P : List Event → Prop} (hx : Runs [] x (fun _ => P) (fun _ => P))
    (L : List Event) :
    Runs L x (fun _ L' => ∃ new, L' = L ++ new ∧ P new) (fun _ L' => ∃ new, L' = L ++ new ∧ P new) := by
  intro h
  obtain ⟨es, hs, hQ, hE⟩ := hx h
  exact ⟨es, hs, fun a ha => ⟨es, rfl, hQ a ha⟩, fun e he => ⟨es, rfl, hE e he⟩⟩

theorem runs_demand_one (q : HostReq) (L : List Event) :
    Runs L (demand q) (fun _ L' => ∃ r, L' = L ++ [(q, r)]) (fun _ L' => ∃ r, L' = L ++ [(q, r)]) := by
  refine .ask_bind fun h => ?_
  split
  · exact .raise ⟨_, rfl⟩
  · exact .pure ⟨_, rfl⟩

theorem runs_readArchive_one (cap : Nat) (e : Err) (path : Bytes) :
    Runs [] (readArchive cap e path) (fun a L' => L' = [(.read path, .data a)])
      (fun _ L' => ∃ r, L' = [(.read path, r)]) := by
  refine Runs.bind (R := fun a L' => L' = [(.read path, .data a)]) (.ask_bind fun h => ?_) fun a L' hL' => ?_
  · cases h.reply (.read path) with
    | data b => exact .pure rfl
    | _ => exact .raise ⟨_, rfl⟩
  · split
    · exact .pure hL'
    · exact .raise ⟨_, hL'⟩

/-- The write requests of a decompression into `base`, the directory `base` first. -/
structure WritesUnder (base : Bytes) (L : List Event) : Prop where
  first : L.head?.map Prod.fst = some (.mkdirs base)
  under : ∀ x ∈ L, ∃ p, writePath x.1 = some p ∧ Under base p

theorem WritesUnder.root (base : Bytes) (r : HostReply) : WritesUnder base [(.mkdirs base, r)] :=
  ⟨rfl, List.forall_mem_singleton.2 ⟨base, rfl, .inl rfl⟩⟩

theorem WritesUnder.concat {base p : Bytes} {L : List Event} {q : HostReq} (h : WritesUnder base L)
    (hq : writePath q = some p) (hp : Under base p) (r : HostReply) : WritesUnder base (L ++ [(q, r)]) := by
  obtain ⟨hfirst, hunder⟩ := h
  refine ⟨?_, List.forall_mem_append.2 ⟨hunder, List.forall_mem_singleton.2 ⟨p, hq, hp⟩⟩⟩
  cases L with
  | nil => cases hfirst
  | cons x L => exact hfirst

theorem under_join {base q : Bytes} (h : validPath q = true) : Under base (join base q) := .inr ⟨q, h, rfl⟩

/-- A part of DDIR that only writes under the root directory. -/
abbrev RunsUnder (base : Bytes) (L : List Event) (x : Act Unit) : Prop :=
  Runs L x (fun _ => WritesUnder base) (fun _ => WritesUnder base)

section

variable {cap : Nat} {base : Bytes} {L : List Event}

theorem runs_demand_under {q : HostReq} {p : Bytes} (hL : WritesUnder base L) (hq : writePath q = some p)
    (hp : Under base p) : RunsUnder base L (demand q) :=
  (runs_demand_one q L).imp (fun _ _ ⟨r, h⟩ => h ▸ hL.concat hq hp r) (fun _ _ ⟨r, h⟩ => h ▸ hL.concat hq hp r)

/-- A file's directory is under the root because its path is valid (R131). -/
theorem runs_applyFile_under {q : Bytes} (f : Frame) (hL : WritesUnder base L) (hv : validPath q = true) :
    RunsUnder base L (applyFile cap base q f) := by
  refine Runs.bind (R := fun _ => WritesUnder base) (.lift (fun _ _ => hL) fun _ _ => hL) fun d L1 hL1 =>
    Runs.bind (R := fun _ => WritesUnder base) ?_ fun _ L2 hL2 => runs_demand_under hL2 rfl (under_join hv)
  split
  · exact .pure hL1
  · next hp => exact runs_demand_under hL1 rfl (under_join (validPath_parent hv hp))

theorem runs_applyEntry_under (e : Entry Frame) (hL : WritesUnder base L) : RunsUnder base L (applyEntry cap base e) := by
  cases e with
  | stop => exact .pure hL
  | dir q =>
    rw [applyEntry]
    split
    · next hv => exact runs_demand_under hL rfl (under_join hv)
    · exact .raise hL
  | file q f =>
    rw [applyEntry]
    split
    · next hv => exact runs_applyFile_under f hL hv
    · exact .raise hL

theorem runs_applyEntries_under (a : Bytes) (fuel p : Nat) (hL : WritesUnder base L) :
    RunsUnder base L (applyEntries cap base a fuel p) := by
  induction fuel generalizing p L with
  | zero => exact .pure hL
  | succ fuel ih =>
    rw [applyEntries_succ]
    refine Runs.bind (R := fun _ => WritesUnder base) (.lift (fun _ _ => hL) fun _ _ => hL) fun ep L1 hL1 => ?_
    split
    · exact .pure hL1
    · exact (runs_applyEntry_under ep.1 hL1).bind fun _ _ hL2 => ih _ hL2

end

/-- The history of DDIR: one H_READ, and write requests only where it answered an archive whose header is accepted. -/
def DdirHistory (pin pdst : Bytes) (L : List Event) : Prop :=
  ∃ r new, L = (.read pin, r) :: new ∧ (new ≠ [] → ∃ a root p, r = .data a ∧ openFolder a = .ok (root, p) ∧
    WritesUnder (join pdst root) new)

theorem runs_decompressDirectory_under (cap : Nat) (pin pdst : Bytes) :
    Runs [] (decompressDirectory cap pin pdst) (fun _ => DdirHistory pin pdst) (fun _ => DdirHistory pin pdst) := by
  have read : ∀ {L r}, L = [(.read pin, r)] → DdirHistory pin pdst L := fun h => ⟨_, [], h, absurd rfl⟩
  refine ((runs_readArchive_one cap .capacityExceeded pin).imp (fun _ _ h => h) fun _ _ ⟨_, h⟩ => read h).bind
    fun a L1 hL1 => Runs.bind (R := fun rp L => L = [(.read pin, .data a)] ∧ openFolder a = .ok rp)
      (.lift (fun _ ho => ⟨hL1, ho⟩) fun _ _ => read hL1) ?_
  rintro ⟨root, p⟩ L2 ⟨rfl, hopen⟩
  have hwrites : RunsUnder (join pdst root) [] ((mkdirs (join pdst root)).bind fun _ =>
      applyEntries cap (join pdst root) a (a.length + 1) p) := by
    refine ((runs_demand_one (.mkdirs (join pdst root)) []).imp (fun _ _ h => h) fun _ _ ⟨r, h⟩ => h ▸ .root _ r).bind ?_
    rintro _ _ ⟨r, rfl⟩
    exact runs_applyEntries_under a _ _ (.root _ r)
  have hhist : ∀ {L}, (∃ new, L = [(.read pin, .data a)] ++ new ∧ WritesUnder (join pdst root) new) →
      DdirHistory pin pdst L := fun ⟨new, hL, hnew⟩ => ⟨_, new, hL, fun _ => ⟨a, root, p, rfl, hopen, hnew⟩⟩
  exact (hwrites.after _).imp (fun _ _ h => hhist h) fun _ _ h => hhist h

end Sys2Proof.Machine
end

section
/-! PROOFS. DDIR on a quiet host: the requests of its entries, one after another (46_operations.md R150, R151). -/

namespace Sys2Proof.Machine

open Sys2Proof.Certificates

/-! ### Write requests on the disk -/

/-- The disk after a write request that is answered OK (20_memory.md R57). -/
def Disk.write (d : Disk) (q : HostReq) : Disk := ⟨filesOnOk d.archive q d.files, archiveAfter d.archive q .ok⟩

/-- The disk after some write requests that are answered OK. -/
def Disk.writes (d : Disk) (qs : List HostReq) : Disk := qs.foldl Disk.write d

theorem Disk.writes_append (d : Disk) (qs qs' : List HostReq) : d.writes (qs ++ qs') = (d.writes qs).writes qs' :=
  List.foldl_append

theorem performs_mkdirs (d : Disk) (p : Bytes) : Performs d (mkdirs p) [.mkdirs p] (.ok ()) (d.writes [.mkdirs p]) :=
  Performs.demand (.inr (.inr (.inr (.inl ⟨p, rfl⟩))))

theorem performs_writeFile (d : Disk) (p b : Bytes) :
    Performs d (demand (.writeFile p b)) [.writeFile p b] (.ok ()) (d.writes [.writeFile p b]) :=
  Performs.demand (.inr (.inr (.inr (.inr ⟨p, b, rfl⟩))))

/-! ### Entries DDIR recreates -/

/-- A payload that decodes to bytes within BUF_CAP (R144, R151). -/
theorem decodePayload_of_decodes {cap : Nat} {f : Frame} {c : Bytes} (h : Decodes f c) (hcap : c.length ≤ cap) :
    decodePayload cap f = .ok c := by
  obtain ⟨⟨hct, -⟩, hprefix, hcover, hpacked⟩ := h
  obtain ⟨t, ht⟩ := (toTrie_ok_iff hct).2 hprefix
  have hunpack := unpack_bitsOf hct ht hcover hpacked
  exact (Except.bind_ok_iff _ _ _).2 ⟨t, ht, (Except.bind_ok_iff _ _ _).2 ⟨c, hunpack, (Except.bind_ok_iff _ _ _).2
    ⟨(), (require_ok_iff ..).2 (decide_eq_true hcap), rfl⟩⟩⟩

/-- The entry that a path with its contents, or a directory, is in the archive. -/
def walkEntry (frame : Bytes → Frame) (x : Bytes × Option Bytes) : Entry Frame :=
  match x.2 with
  | none => .dir x.1
  | some c => .file x.1 (frame c)

theorem walkEntryBytes_eq (frame : Bytes → Frame) (x : Bytes × Option Bytes) :
    walkEntryBytes frame x = entryBytes (walkEntry frame x) := by
  obtain ⟨q, _ | c⟩ := x <;> rfl

/-- An entry DDIR recreates: a valid path, and for a file a payload that decodes to contents within BUF_CAP. -/
structure Recreatable (cap : Nat) (frame : Bytes → Frame) (x : Bytes × Option Bytes) : Prop where
  path : validPath x.1 = true
  length : x.1.length ≤ Config.maxStr
  payload : ∀ c, x.2 = some c → Decodes (frame c) c ∧ c.length ≤ cap

section

variable {cap : Nat} {frame : Bytes → Frame} {base a r : Bytes} {x : Bytes × Option Bytes}
  {es : List (Bytes × Option Bytes)}

theorem Recreatable.entryFits (h : Recreatable cap frame x) : EntryFits (walkEntry frame x) := by
  obtain ⟨-, hlen, hpay⟩ := h
  obtain ⟨q, _ | c⟩ := x
  · exact hlen
  · exact ⟨hlen, (hpay c rfl).1.1⟩

theorem length_le_entriesBytes (h : ∀ x ∈ es, Recreatable cap frame x) : es.length ≤ (entriesBytes frame es).length := by
  rw [entriesBytes, List.length_flatMap, ← List.length_map (f := fun x => (walkEntryBytes frame x).length)]
  refine List.length_le_sum_of_one_le _ (List.forall_mem_map.2 fun x hx => ?_)
  rw [walkEntryBytes_eq]
  exact entryBytes_pos (h x hx).entryFits

theorem performs_applyEntry (d : Disk) (h : Recreatable cap frame x) :
    Performs d (applyEntry cap base (walkEntry frame x)) (entryRequests base x) (.ok ())
      (d.writes (entryRequests base x)) := by
  obtain ⟨hv, -, hpay⟩ := h
  obtain ⟨q, _ | c⟩ := x
  · rw [walkEntry, applyEntry, if_pos hv]
    exact performs_mkdirs d _
  · obtain ⟨hdec, hcap⟩ := hpay c rfl
    rw [walkEntry, applyEntry, if_pos hv, applyFile, decodePayload_of_decodes hdec hcap, Act.lift_ok_bind, entryRequests,
      Disk.writes_append]
    refine Performs.bind (a := ()) ?_ (performs_writeFile _ _ _)
    split
    · exact .pure ()
    · exact performs_mkdirs d _

/-- The loop goes over the entries that are there, each with its requests, and then does what it does at the cursor after
them with the fuel left. -/
theorem performs_applyEntries {d d' : Disk} {k p : Nat} {qs : List HostReq} {res : Except Err Unit}
    (hes : ∀ x ∈ es, Recreatable cap frame x) (hrest : RestAt a p (entriesBytes frame es ++ r))
    (hend : Performs (d.writes (es.flatMap (entryRequests base)))
      (applyEntries cap base a k (p + (entriesBytes frame es).length)) qs res d') :
    Performs d (applyEntries cap base a (es.length + k) p) (es.flatMap (entryRequests base) ++ qs) res d' := by
  induction es generalizing d p with
  | nil =>
    rw [List.length_nil, Nat.zero_add]
    exact hend
  | cons x es ih =>
    obtain ⟨hx, hes⟩ := List.forall_mem_cons.1 hes
    have hbytes : entriesBytes frame (x :: es) = entryBytes (walkEntry frame x) ++ entriesBytes frame es := by
      rw [← walkEntryBytes_eq]
      rfl
    rw [hbytes, List.append_assoc] at hrest
    rw [hbytes, List.length_append, ← Nat.add_assoc, List.flatMap_cons, Disk.writes_append] at hend
    have hne : walkEntry frame x ≠ .stop := fun h => by
      have hfits := hx.entryFits
      rw [h] at hfits
      exact hfits
    rw [List.length_cons, Nat.succ_add, applyEntries_of_read (entryRead_entryBytes hx.entryFits hrest) hne,
      List.flatMap_cons, List.append_assoc]
    exact (performs_applyEntry d hx).bind (ih hes hrest.tail hend)

end

/-! ### The whole command -/

theorem exec_ddir (s : State) : exec .ddir s = .next
    ((s.setHost (decompressDirectory s.cap s.pin s.pdst s.host).2).setStatus 0x1B#8
      (endCode (resultError (decompressDirectory s.cap s.pin s.pdst s.host).1))) :=
  (exec_operation (i := .ddir) rfl (by decide) s).trans (congrArg _ (State.operate_eq ..))

theorem performs_readArchive {cap : Nat} {e : Err} {pin a : Bytes} {fs : FileSystem} {o : Option Bytes}
    (hfile : fsLookup fs pin = some (.file a)) (hcap : a.length ≤ cap) :
    Performs ⟨fs, o⟩ (readArchive cap e pin) [.read pin] (.ok a) ⟨fs, o⟩ :=
  (Performs.readFile hfile).bind (qs' := []) (by rw [if_pos hcap]; exact .pure a)

/-- DDIR of an archive whose header is accepted: the root directory, and then the entries. -/
theorem performs_decompressDirectory {cap : Nat} {pin pdst a root : Bytes} {p : Nat} {fs : FileSystem} {o : Option Bytes}
    {qs : List HostReq} {res : Except Err Unit} {d' : Disk} (hfile : fsLookup fs pin = some (.file a))
    (hcap : a.length ≤ cap) (hopen : openFolder a = .ok (root, p))
    (h : Performs ((Disk.mk fs o).writes [.mkdirs (join pdst root)])
      (applyEntries cap (join pdst root) a (a.length + 1) p) qs res d') :
    Performs ⟨fs, o⟩ (decompressDirectory cap pin pdst) (.read pin :: .mkdirs (join pdst root) :: qs) res d' := by
  refine (performs_readArchive hfile hcap).bind (qs' := .mkdirs (join pdst root) :: qs) ?_
  rw [hopen, Act.lift_ok_bind]
  exact (performs_mkdirs _ _).bind h

/-- DDIR of an archive that has an entry which fails before its requests (R152): exactly the requests of the entries before
it. -/
theorem performs_decompressDirectory_error {cap : Nat} {frame : Bytes → Frame} {pin pdst a root r : Bytes}
    {es : List (Bytes × Option Bytes)} {fs : FileSystem} {o : Option Bytes} {e : Err}
    (hfile : fsLookup fs pin = some (.file a)) (ha : a = headerBytes true root ++ entriesBytes frame es ++ r)
    (hcap : a.length ≤ cap) (hv : validName root = true) (hn : root.length ≤ Config.maxStr)
    (hes : ∀ x ∈ es, Recreatable cap frame x) (he : entryError cap a (a.length - r.length) = some e) :
    Performs ⟨fs, o⟩ (decompressDirectory cap pin pdst)
      (.read pin :: .mkdirs (join pdst root) :: es.flatMap (entryRequests (join pdst root))) (.error e)
      ((Disk.mk fs o).writes (.mkdirs (join pdst root) :: es.flatMap (entryRequests (join pdst root)))) := by
  rw [List.append_assoc] at ha
  have hrest : RestAt a (headerBytes true root).length (entriesBytes frame es ++ r) := ⟨_, ha, rfl⟩
  have hlen := hrest.length
  have hcount := length_le_entriesBytes hes
  rw [List.length_append] at hlen
  have hcursor : a.length - r.length = (headerBytes true root).length + (entriesBytes frame es).length := by omega
  obtain ⟨k, hk⟩ : ∃ k, a.length + 1 = es.length + (k + 1) := ⟨a.length - es.length, by omega⟩
  have hloop := performs_applyEntries (base := join pdst root) (d := (Disk.mk fs o).writes [.mkdirs (join pdst root)])
    (k := k + 1) (qs := []) hes hrest (by rw [applyEntries_of_entryError (hcursor ▸ he)]; exact .raise e)
  rw [List.append_nil, ← hk] at hloop
  exact performs_decompressDirectory hfile hcap (openFolder_of_header hv hn ha) hloop

end Sys2Proof.Machine
end

section
/-! PROOFS. The statements about container entries and paths (44_container.md R126 to R134), and about the paths DDIR writes
(46_operations.md R150 to R152). -/

namespace Sys2Proof.Proofs

open Sys2Proof Sys2Proof.Machine Sys2Proof.Certificates

/-- Settles O59: the segments are those of the library's split, which joining with SEP undoes, and a path that holds a SEP is
taken apart at its last one. -/
theorem pathsSplitAtSep : Obligations.PathsSplitAtSep := by
  refine ⟨fun q => ⟨fun h => ?_, ?_⟩, fun q => ?_, fun q d => descendant_iff⟩
  · rw [validPath_iff] at h
    refine ⟨segments q, ?_, ?_, fun x hx => ?_⟩
    · rw [segments_eq_splitOn]
      exact List.splitOn_ne_nil _ _
    · rw [segments_eq_splitOn, List.intercalate_splitOn]
    · obtain ⟨hne, hdots⟩ := validSegment_iff.1 (h x hx)
      exact ⟨hne, sep_notMem_of_mem_segments hx, hdots⟩
  · rintro ⟨segs, hne, rfl, hsegs⟩
    rw [validPath_iff, segments_eq_splitOn, List.splitOn_intercalate _ (fun x hx => (hsegs x hx).2.1) hne]
    intro x hx
    obtain ⟨hx0, -, hdots⟩ := hsegs x hx
    exact validSegment_iff.2 ⟨hx0, hdots⟩
  · by_cases hsep : Config.sep ∈ q
    · obtain ⟨p, l, rfl, hl⟩ := exists_last_sep hsep
      rw [lastSeg_append_last hl, parent_append_last hl]
      exact ⟨hl, fun _ => rfl, fun h => absurd hsep h⟩
    · rw [lastSeg_of_sep_notMem hsep, parent_of_sep_notMem hsep]
      exact ⟨hsep, fun h => absurd h hsep, fun _ => ⟨rfl, rfl⟩⟩

/-- Settles O28: the entry written is its layout (`ewrDirRegs_of_le`, `ewrFileRegs_of_wf`), DOUT takes it exactly where it fits,
and the frame's checks come before. -/
theorem ewrAppendsEntry : Obligations.EwrAppendsEntry := by
  refine ⟨rfl, rfl, fun s hn =>
    ⟨fun hfit => ?_, fun hfull => ?_, fun hf hfit => ?_, fun heff => ?_, fun hc heff hbig => ?_⟩⟩
  · exact exec_append_of_le (i := .ewrDir) rfl (ewrDirRegs_of_le hn) hfit
  · exact exec_append_of_lt (i := .ewrDir) rfl (ewrDirRegs_of_le hn) hfull
  · exact exec_append_of_le (i := .ewrFile) rfl (ewrFileRegs_of_wf hn hf) hfit
  · exact (exec_eq_abort_iff (i := .ewrFile) rfl).2 (ewrFileRegs_of_error hn (frameWrite_badEff heff))
  · by_cases hlen : s.pk.length ≤ Config.maxField
    · have hfull := hbig.resolve_left (Nat.not_lt_of_le hlen)
      exact exec_append_of_lt (i := .ewrFile) rfl (ewrFileRegs_of_wf hn ⟨hc, heff, hlen⟩) hfull
    · have hframe := frameWrite_longPayload (c := s.ct) heff (Nat.lt_of_not_le hlen)
      exact (exec_eq_abort_iff (i := .ewrFile) rfl).2 (ewrFileRegs_of_error hn hframe)

/-- Settles O30, by induction on the entries: each is read back whatever follows it (`entryRead_entryBytes`), and the cursor
after the last is the end. -/
theorem entriesReadBack : Obligations.EntriesReadBack :=
  fun _ pre hes => readsAs_entryBytes hes ⟨pre, rfl, rfl⟩

/-- Settles O43: on every host DDIR's history is one of `DdirHistory`; on a quiet host, by induction on the entries, it makes
the requests of each until one fails (`performs_decompressDirectory_error`). -/
theorem ddirWritesUnderItsRoot : Obligations.DdirWritesUnderItsRoot := by
  refine ⟨fun s t h => ?_, ?_⟩
  · obtain ⟨es, hs, hok, herr⟩ := runs_decompressDirectory_under s.cap s.pin s.pdst s.host
    rw [exec_ddir s, Host.Outcome.next.injEq] at h
    subst h
    have hist : DdirHistory s.pin s.pdst es := by
      cases hr : (decompressDirectory s.cap s.pin s.pdst s.host).1 with
      | ok u => exact hok u hr
      | error e => exact herr e hr
    obtain ⟨r, new, rfl, hnew⟩ := hist
    refine ⟨r, new, by rw [List.append_assoc]; exact hs.trace, fun hne => ?_⟩
    obtain ⟨a, root, p, hr, hopen, hfirst, hunder⟩ := hnew hne
    obtain ⟨hv, rest, ha, rfl⟩ := openFolder_ok hopen
    exact ⟨a, root, rest, hr, ha, hopen, hv, hfirst, hunder⟩
  · rintro s root base r es frame qs a e hfile ha hcap hv hn rfl hpaths hpay he rfl hq
    have hes : ∀ x ∈ es, Recreatable s.cap frame x := fun x hx => ⟨(hpaths x hx).1, (hpaths x hx).2, hpay x hx⟩
    obtain ⟨ev, hs, hev, hres, -⟩ := performs_decompressDirectory_error (pdst := s.pdst) (o := s.host.archive) hfile ha hcap
      hv hn hes he s.host rfl (by rwa [List.length_cons, Nat.add_comm])
    refine ⟨_, exec_ddir s, ?_, ?_⟩
    · rw [hres]
      rfl
    · show (decompressDirectory s.cap s.pin s.pdst s.host).2.trace.map Prod.fst = _
      rw [hs.trace, List.map_append, hev, List.append_assoc]
      rfl

end Sys2Proof.Proofs
end

section
/-! PROOFS. HWR and HRD: the header HWR writes, and what HRD does at a header, at other bytes and at a name cut short
(45_archive_header.md R135 to R138). -/

namespace Sys2Proof.Machine

open Sys2Proof.Certificates

theorem headerBytes_length (fold : Bool) (name : Bytes) : (headerBytes fold name).length = 7 + name.length := by
  rw [headerBytes_eq, List.length_append, signature_length, strBytes_length]
  omega

theorem headerBytes_take_five (fold : Bool) (name : Bytes) : (headerBytes fold name).take 5 = signature fold := by
  rw [headerBytes_eq, List.take_left' (signature_length fold)]

variable {fold : Bool} {name : Bytes}

/-- After the signature only the name is left to read (R136). -/
theorem headerRead_of_signature {s y : Bytes} {p : Nat} (h : RestAt s p (signature fold ++ y)) :
    headerRead s p fold = rdStr s (p + 5) := by
  obtain ⟨hle, hsig, -⟩ := (rdBytes_ok_iff ..).1 ((rdBytes_parses (signature_length fold)).whole h)
  rw [headerRead, decide_eq_true hle, ← hsig, beq_self_eq_true]
  rfl

/-- Fewer than 5 bytes are no signature either (R136). -/
theorem headerRead_badSignature {s : Bytes} {p : Nat} (h : (s.drop p).take 5 ≠ signature fold) :
    headerRead s p fold = .error .unrecognizedFormat := by
  rw [headerRead, beq_eq_false_iff_ne.2 h, Bool.and_false]
  rfl

theorem headerRead_cut {s : Bytes} {p k : Nat} (hn : name.length ≤ Config.maxStr) (hk : k < 2 + name.length)
    (h : RestAt s p ((headerBytes fold name).take (5 + k))) : headerRead s p fold = .error .truncatedStream := by
  rw [headerBytes_eq, ← signature_length fold, List.take_length_add_append] at h
  rw [headerRead_of_signature h]
  exact (rdStr_parses hn).cut (by rwa [strBytes_length]) (signature_length fold ▸ h.tail)

/-! ### The commands -/

variable {s : State}

theorem hwrRegs_of_le (hn : s.name.length ≤ Config.maxStr) : hwrRegs fold s = s.appendDout (headerBytes fold s.name) := by
  rw [hwrRegs, headerWrite_of_le hn]
  rfl

/-- HRD of either kind. -/
theorem exec_hrd (fold : Bool) (s : State) :
    exec (if fold then .hrdFold else .hrdFile) s = .next (s.finish 0x11#8 (hrdRegs fold s)) := by
  cases fold <;> rfl

theorem exec_hrd_of_ok {p : Nat} (h : headerRead s.din s.pos fold = .ok (name, p)) :
    exec (if fold then .hrdFold else .hrdFile) s = .next (((s.setName name).setPos p).succeed 0x11#8) := by
  rw [exec_hrd, hrdRegs, h]
  rfl

theorem exec_hrd_of_error {e : Err} (h : headerRead s.din s.pos fold = .error e) :
    exec (if fold then .hrdFold else .hrdFile) s = .next (s.abort 0x11#8 e) := by
  rw [exec_hrd, hrdRegs, h]
  rfl

end Sys2Proof.Machine
end

section
/-! PROOFS. What the decoding operations make of an archive's bytes: the errors of opening it (45_archive_header.md R136,
R139; 46_operations.md R144, R150). -/

namespace Sys2Proof.Machine

open Sys2Proof.Certificates

variable {cap : Nat} {a name r : Bytes} {e : Err}

theorem headerRead_of_archive {fold : Bool} (hn : name.length ≤ Config.maxStr) (ha : a = headerBytes fold name ++ r) :
    headerRead a 0 fold = .ok (name, 7 + name.length) := by
  have hrest : RestAt a 0 (headerBytes fold name ++ r) := ⟨[], ha, rfl⟩
  rw [headerRead_whole hn hrest, headerBytes_length, Nat.zero_add]

theorem openFileArchive_of_headerError (h : headerRead a 0 false = .error e) : openFileArchive cap a = .error e := by
  rw [openFileArchive, h]
  rfl

theorem openFolder_of_headerError (h : headerRead a 0 true = .error e) : openFolder a = .error e := by
  rw [openFolder, h]
  rfl

theorem previewArchive_of_headerError (h : headerRead a 0 true = .error e) : previewArchive a = ⟨none, [], some e⟩ := by
  rw [previewArchive, h]

theorem openFolder_badName (hn : name.length ≤ Config.maxStr) (hv : validName name = false)
    (ha : a = headerBytes true name ++ r) : openFolder a = .error .malformed := by
  rw [openFolder, headerRead_of_archive hn ha]
  show (require (validName name) .malformed >>= _) = _
  rw [hv]
  rfl

/-- What is left of opening a single-file archive once its header is read: the name is checked first (R144). -/
theorem openFileArchive_of_header (hn : name.length ≤ Config.maxStr) (ha : a = headerBytes false name ++ r) :
    openFileArchive cap a = (do
      require (validName name) .malformed
      let (f, p) ← frameRead a (7 + name.length)
      require (p == a.length) .malformed
      let d ← decodePayload cap f
      .ok (name, d)) := by
  rw [openFileArchive, headerRead_of_archive hn ha]
  rfl

theorem openFileArchive_badName (hn : name.length ≤ Config.maxStr) (hv : validName name = false)
    (ha : a = headerBytes false name ++ r) : openFileArchive cap a = .error .malformed := by
  rw [openFileArchive_of_header hn ha, hv]
  rfl

theorem openFileArchive_badFrame (hn : name.length ≤ Config.maxStr) (hv : validName name = true)
    (ha : a = headerBytes false name ++ r) (he : frameRead a (7 + name.length) = .error e) :
    openFileArchive cap a = .error e := by
  rw [openFileArchive_of_header hn ha, hv, he]
  rfl

/-- Bytes after the frame are Malformed, whatever the name is: a name that is not valid is Malformed too. -/
theorem openFileArchive_trailing {f : Frame} (hn : name.length ≤ Config.maxStr) (hf : FrameWf f) (hr : r ≠ [])
    (ha : a = headerBytes false name ++ frameBytes f ++ r) : openFileArchive cap a = .error .malformed := by
  rw [List.append_assoc] at ha
  cases hv : validName name with
  | false => exact openFileArchive_badName hn hv ha
  | true =>
    have hrest : RestAt a (7 + name.length) (frameBytes f ++ r) := ⟨_, ha, headerBytes_length false name⟩
    have hend : (7 + name.length + (frameBytes f).length == a.length) = false := by
      have hlen := hrest.length
      have := List.length_pos_iff.2 hr
      rw [List.length_append] at hlen
      exact beq_eq_false_iff_ne.2 (by omega)
    rw [openFileArchive_of_header hn ha, hv, (frameRead_parses hf (.refl _)).whole hrest]
    show (require (7 + name.length + (frameBytes f).length == a.length) .malformed >>= _) = _
    rw [hend]
    rfl

theorem openFileArchive_validName {d : Bytes} (h : openFileArchive cap a = .ok (name, d)) : validName name = true := by
  obtain ⟨⟨n, p⟩, -, h⟩ := (Except.bind_ok_iff _ _ _).1 h
  obtain ⟨_, hv, h⟩ := (Except.bind_ok_iff _ _ _).1 h
  obtain ⟨⟨f, q⟩, -, h⟩ := (Except.bind_ok_iff _ _ _).1 h
  obtain ⟨_, -, h⟩ := (Except.bind_ok_iff _ _ _).1 h
  obtain ⟨d', -, h⟩ := (Except.bind_ok_iff _ _ _).1 h
  cases h
  exact (require_ok_iff ..).1 hv

end Sys2Proof.Machine
end

section
/-! PROOFS. The decoding operations on every host: one H_READ, the opening of its archive, and only then the rest
(45_archive_header.md R140; 46_operations.md R144, R150, R158). -/

namespace Sys2Proof.Machine

/-- Read an archive, open it without a request, and go on with what was found; `decompressFile_eq` and
`decompressDirectory_eq` tie it to DFILE and DDIR. -/
def readThenOpen {α : Type} (cap : Nat) (pin : Bytes) (opened : Bytes → Except Err α) (rest : Bytes → α → Act Unit) :
    Act Unit :=
  (readArchive cap .capacityExceeded pin).bind fun a => (Act.lift (opened a)).bind (rest a)

theorem decompressFile_eq (cap : Nat) (pin pdst : Bytes) : decompressFile cap pin pdst =
    readThenOpen cap pin (openFileArchive cap) fun _ nd => demand (.writeFile (join pdst nd.1) nd.2) := rfl

theorem decompressDirectory_eq (cap : Nat) (pin pdst : Bytes) : decompressDirectory cap pin pdst =
    readThenOpen cap pin openFolder fun a rp =>
      (mkdirs (join pdst rp.1)).bind fun _ => applyEntries cap (join pdst rp.1) a (a.length + 1) rp.2 := rfl

/-- Reading an archive is one H_READ, whatever comes of it. -/
theorem readArchive_host (cap : Nat) (e : Err) (pin : Bytes) (h : HostSide) :
    (readArchive cap e pin h).2 = h.after (.read pin) := by
  rw [readArchive_apply]

theorem readArchive_of_data {cap : Nat} {pin a : Bytes} {h : HostSide} (e : Err)
    (ha : h.reply (.read pin) = .data a) (hcap : a.length ≤ cap) :
    readArchive cap e pin h = (.ok a, h.after (.read pin)) := by
  simp only [readArchive_apply, ha, if_pos hcap]

section

variable {α : Type} {cap : Nat} {pin : Bytes} {opened : Bytes → Except Err α} {rest : Bytes → α → Act Unit} {h : HostSide}

/-- Either the H_READ is the only request, and an error ends it, or the archive was opened and the rest is run. -/
theorem readThenOpen_cases :
    (∃ e, readThenOpen cap pin opened rest h = (.error e, h.after (.read pin))) ∨
      ∃ a v, opened a = .ok v ∧ readThenOpen cap pin opened rest h = rest a v (h.after (.read pin)) := by
  have hhost := readArchive_host cap .capacityExceeded pin h
  rw [readThenOpen, Act.bind]
  split
  · next a h' ha =>
    rw [ha] at hhost
    subst hhost
    cases hv : opened a with
    | ok v => exact .inr ⟨a, v, hv, rfl⟩
    | error e => exact .inl ⟨e, rfl⟩
  · next e h' he =>
    rw [he] at hhost
    subst hhost
    exact .inl ⟨e, rfl⟩

/-- An archive within BUF_CAP that cannot be opened ends the command with the error of opening it. -/
theorem readThenOpen_of_error {a : Bytes} {e : Err} (ha : h.reply (.read pin) = .data a) (hcap : a.length ≤ cap)
    (he : opened a = .error e) : readThenOpen cap pin opened rest h = (.error e, h.after (.read pin)) := by
  rw [readThenOpen, Act.bind, readArchive_of_data _ ha hcap]
  simp only [he, Act.lift_error_bind, Act.raise_apply]

end

/-! ### DFILE (R144) -/

theorem decompressFile_cases (cap : Nat) (pin pdst : Bytes) (h : HostSide) :
    (∃ e, decompressFile cap pin pdst h = (.error e, h.after (.read pin))) ∨
      ∃ a nd, openFileArchive cap a = .ok nd ∧
        decompressFile cap pin pdst h = demand (.writeFile (join pdst nd.1) nd.2) (h.after (.read pin)) := by
  rw [decompressFile_eq]
  exact readThenOpen_cases

variable {s t : State} {a : Bytes} {e : Err}

theorem exec_dfile (s : State) : exec .dfile s = .next
    ((s.setHost (decompressFile s.cap s.pin s.pdst s.host).2).setStatus 0x19#8
      (endCode (resultError (decompressFile s.cap s.pin s.pdst s.host).1))) :=
  (exec_operation (i := .dfile) rfl (by decide) s).trans (congrArg _ (State.operate_eq ..))

/-- All DFILE can do: its H_READ alone and an error, or one H_WRITEFILE after it, whose only error is IOFailure. -/
theorem exec_dfile_cases (h : exec .dfile s = .next t) :
    t.host = s.host.after (.read s.pin) ∨
      ∃ name d, validName name = true ∧ (t.err = 0 ∨ t.err = 5) ∧
        t.host = (s.host.after (.read s.pin)).after (.writeFile (join s.pdst name) d) := by
  rw [exec_dfile, Host.Outcome.next.injEq] at h
  subst h
  rcases decompressFile_cases s.cap s.pin s.pdst s.host with ⟨e, hr⟩ | ⟨a, ⟨name, d⟩, hopen, hr⟩
  · rw [hr]
    exact .inl rfl
  · rw [hr, demand_apply, State.err_setStatus]
    refine .inr ⟨name, d, openFileArchive_validName hopen, ?_, rfl⟩
    split
    · exact .inr rfl
    · exact .inl rfl

theorem exec_dfile_of_error (ha : s.host.reply (.read s.pin) = .data a) (hcap : a.length ≤ s.cap)
    (he : openFileArchive s.cap a = .error e) :
    exec .dfile s = .next ((s.setHost (s.host.after (.read s.pin))).abort 0x19#8 e) := by
  rw [exec_dfile, decompressFile_eq, readThenOpen_of_error ha hcap he]
  rfl

/-! ### DDIR (R150) -/

theorem decompressDirectory_cases (cap : Nat) (pin pdst : Bytes) (h : HostSide) :
    (∃ e, decompressDirectory cap pin pdst h = (.error e, h.after (.read pin))) ∨
      ∃ a rp, openFolder a = .ok rp ∧
        decompressDirectory cap pin pdst h =
          ((mkdirs (join pdst rp.1)).bind fun _ => applyEntries cap (join pdst rp.1) a (a.length + 1) rp.2)
            (h.after (.read pin)) := by
  rw [decompressDirectory_eq]
  exact readThenOpen_cases

theorem exec_ddir_of_error (ha : s.host.reply (.read s.pin) = .data a) (hcap : a.length ≤ s.cap)
    (he : openFolder a = .error e) :
    exec .ddir s = .next ((s.setHost (s.host.after (.read s.pin))).abort 0x1B#8 e) := by
  rw [exec_ddir, decompressDirectory_eq, readThenOpen_of_error ha hcap he]
  rfl

/-- A computation that cannot raise UnrecognizedFormat does not end with its code. -/
theorem endCode_ne_unrecognizedFormat {α : Type} {l : List Err} {r : Except Err α} (hr : Raises l r)
    (hl : .unrecognizedFormat ∉ l) : endCode (resultError r) ≠ 2 := by
  cases r with
  | ok _ => exact (by decide : (0 : BitVec 4) ≠ 2)
  | error e =>
    intro h
    obtain rfl : e = .unrecognizedFormat := errCode_injective h
    exact hl (hr _ rfl)

/-- Only the header raises UnrecognizedFormat in DDIR, and no write has been requested then. -/
theorem exec_ddir_unrecognized (h : exec .ddir s = .next t) (ht : t.err = 2) : t.host = s.host.after (.read s.pin) := by
  rw [exec_ddir, Host.Outcome.next.injEq] at h
  subst h
  rw [State.err_setStatus] at ht
  rcases decompressDirectory_cases s.cap s.pin s.pdst s.host with ⟨e, hr⟩ | ⟨a, ⟨root, p⟩, -, hr⟩
  · rw [hr]
    rfl
  · rw [hr] at ht
    have hraises : Act.Raises [.ioFailure, .truncatedStream, .malformed, .capacityExceeded]
        ((mkdirs (join s.pdst root)).bind fun _ => applyEntries s.cap (join s.pdst root) a (a.length + 1) p) :=
      ((Act.Raises.demand _).mono (by decide)).bind fun _ => .applyEntries _ _ _ _ _
    exact absurd ht (endCode_ne_unrecognizedFormat (hraises _) (by decide))

/-! ### PREV (R158) -/

theorem preview_host (cap : Nat) (pin : Bytes) (h : HostSide) : (preview cap pin h).2 = h.after (.read pin) := by
  rw [← readArchive_host cap .ioFailure pin h, preview]
  split
  · next a h' hread => rw [hread]
  · next e h' hread => rw [hread]

theorem exec_prev_host (h : exec .prev s = .next t) : t.host = s.host.after (.read s.pin) := by
  rw [exec_prev, Host.Outcome.next.injEq] at h
  subst h
  exact preview_host ..

theorem exec_prev_of_headerError (ha : s.host.reply (.read s.pin) = .data a) (hcap : a.length ≤ s.cap)
    (he : headerRead a 0 true = .error e) :
    exec .prev s = .next (((s.setHost (s.host.after (.read s.pin))).setPvw []).abort 0x1C#8 e) := by
  have hpreview : preview s.cap s.pin s.host = (⟨none, [], some e⟩, s.host.after (.read s.pin)) := by
    simp only [preview, readArchive_of_data _ ha hcap, previewArchive_of_headerError he]
  rw [exec_prev, State.afterPrev, hpreview]
  rfl

end Sys2Proof.Machine
end

section
/-! PROOFS. The statements about the archive header (45_archive_header.md R135 to R140). -/

namespace Sys2Proof.Proofs

open Sys2Proof Sys2Proof.Machine Sys2Proof.Certificates

/-- Settles O31: HWR of either kind appends the header's layout (`hwrRegs_of_le`), and DOUT takes it exactly where it fits. -/
theorem hwrAppendsHeader : Obligations.HwrAppendsHeader := by
  refine ⟨rfl, rfl, fun s hn => ⟨fun hfit => ?_, fun hfull => ?_⟩⟩
  · have hfit (fold : Bool) : s.dout.length + (headerBytes fold s.name).length ≤ s.cap := by rwa [headerBytes_length]
    exact ⟨exec_append_of_le (i := .hwrFile) rfl (hwrRegs_of_le hn) (hfit false),
      exec_append_of_le (i := .hwrFold) rfl (hwrRegs_of_le hn) (hfit true)⟩
  · have hfull (fold : Bool) : s.cap < s.dout.length + (headerBytes fold s.name).length := by rwa [headerBytes_length]
    exact ⟨exec_append_of_lt (i := .hwrFile) rfl (hwrRegs_of_le hn) (hfull false),
      exec_append_of_lt (i := .hwrFold) rfl (hwrRegs_of_le hn) (hfull true)⟩

/-- Settles O32: HRD ends as reading the header at POS does (`headerRead_whole`, `headerRead_badSignature`,
`headerRead_cut`). -/
theorem hrdReadsHeader : Obligations.HrdReadsHeader := by
  refine ⟨rfl, rfl, ?_⟩
  rintro s fold _ rfl
  refine ⟨fun name pre r hn hdin hpos => ?_, fun hsig => ?_, fun name pre k hn hk hdin hpos => ?_⟩
  · have hrest : RestAt s.din s.pos (headerBytes fold name ++ r) := ⟨pre, by rw [hdin, List.append_assoc], hpos.symm⟩
    rw [exec_hrd_of_ok (headerRead_whole hn hrest), headerBytes_length, hpos, Nat.add_assoc]
  · rw [headerBytes_take_five] at hsig
    exact exec_hrd_of_error (headerRead_badSignature hsig)
  · exact exec_hrd_of_error (headerRead_cut hn hk ⟨pre, hdin, hpos.symm⟩)

/-- Settles O42: DFILE writes only after the archive was opened, and that write's only error is IOFailure
(`exec_dfile_cases`); DDIR raises UnrecognizedFormat only at the header (`exec_ddir_unrecognized`); PREV never writes; and an
archive that cannot be opened ends each with the error of opening it. -/
theorem noWriteBeforeHeader : Obligations.NoWriteBeforeHeader := by
  have one {s t : State} (h : t.host = s.host.after (.read s.pin)) :
      ∃ r : HostReply, t.host.trace = s.host.trace ++ [(.read s.pin, r)] := ⟨_, congrArg HostSide.trace h⟩
  have dfileOne {s t : State} (h : exec .dfile s = .next t) (h0 : t.err ≠ 0) (h5 : t.err ≠ 5) :
      t.host = s.host.after (.read s.pin) :=
    (exec_dfile_cases h).resolve_right fun ⟨_, _, _, herr, _⟩ => herr.elim h0 h5
  refine ⟨?_, fun s t h h0 h5 => one (dfileOne h h0 h5), fun s t h => ?_, ?_⟩
  · rintro i s t (rfl | rfl | rfl) h herr
    · exact one (dfileOne h (by rw [herr]; decide) (by rw [herr]; decide))
    · exact one (exec_ddir_unrecognized h herr)
    · exact one (exec_prev_host h)
  · refine ⟨s.host.reply (.read s.pin), ?_⟩
    rcases exec_dfile_cases h with hhost | ⟨name, d, hv, -, hhost⟩
    · exact .inl (congrArg HostSide.trace hhost)
    · exact .inr ⟨name, d, _, hv, (congrArg HostSide.trace hhost).trans (List.append_assoc ..)⟩
  · rintro s a _ ha hcap rfl
    refine ⟨fun e => exec_dfile_of_error ha hcap, fun e => exec_ddir_of_error ha hcap, fun hsig => ?_, fun hsig => ?_,
      fun name r hn hv => ⟨fun harch => ?_, fun harch => ?_⟩, fun name r f hn hf hr harch => ?_,
      fun name r e hn hv harch he => ?_⟩
    · rw [headerBytes_take_five] at hsig
      exact exec_dfile_of_error ha hcap (openFileArchive_of_headerError (headerRead_badSignature hsig))
    · rw [headerBytes_take_five] at hsig
      have hread : headerRead a 0 true = .error .unrecognizedFormat := headerRead_badSignature hsig
      exact ⟨exec_ddir_of_error ha hcap (openFolder_of_headerError hread), exec_prev_of_headerError ha hcap hread⟩
    · exact exec_dfile_of_error ha hcap (openFileArchive_badName hn hv harch)
    · exact exec_ddir_of_error ha hcap (openFolder_badName hn hv harch)
    · exact exec_dfile_of_error ha hcap (openFileArchive_trailing hn hf hr harch)
    · exact exec_dfile_of_error ha hcap (openFileArchive_badFrame hn hv harch he)

end Sys2Proof.Proofs
end

section
/-! PROOFS. Two passes over the same contents and the streams CFILE and CDIR build of them: what a computation that succeeds
has made, and when it succeeds (46_operations.md R142, R143; 20_memory.md R42). -/

namespace Sys2Proof.Machine

open Sys2Proof.Certificates

/-! ### The frame of a file (R143) -/

/-- Two passes over the same contents give the packed form of the code bits, exactly where it fits both bounds. -/
theorem encodePasses_of_codes {d : Bytes} {c : CodeTable} (cap : Nat) (hc : codesOf (buildTree (freqOf d)) = .ok c) :
    ∃ o e, PackedForm o e (bitsOf c d) ∧
      encodePasses cap d d = if PackFits cap c d then .ok ⟨c, e, o⟩ else .error .capacityExceeded := by
  obtain ⟨c', hc', -, hcover, -⟩ := codesOf_freqOf d
  obtain rfl : c' = c := Except.ok.inj (hc'.symm.trans hc)
  obtain ⟨o, e, hform, hpack⟩ := pack_of_covers hcover
  have hlen := hform.length
  refine ⟨o, e, hform, ?_⟩
  rw [encodePasses, hc]
  show (pack d c' >>= fun r => require (decide (r.1.length ≤ cap)) .capacityExceeded >>= fun _ =>
    .ok (Frame.mk c' r.2 r.1)) = _
  rw [hpack]
  by_cases hmax : o.length ≤ Config.maxField
  · rw [if_pos hmax]
    refine (require_decide_bind _ _ _).trans (if_congr ?_ rfl rfl)
    dsimp only
    omega
  · rw [if_neg hmax, if_neg (by omega)]
    rfl

/-- What two passes over the same contents give is the contents' frame. -/
theorem frameOf_of_encodePasses {cap : Nat} {frame : Bytes → Frame} {d : Bytes}
    (h : encodePasses cap d d = .ok (frame d)) : FrameOf cap frame d := by
  obtain ⟨c, hcodes, hc, hcover, htrie⟩ := codesOf_freqOf d
  obtain ⟨o, e, hform, hpasses⟩ := encodePasses_of_codes cap hcodes
  rw [h] at hpasses
  split at hpasses
  · next hfit =>
    have hlen := hform.length
    rw [FrameOf, Except.ok.inj hpasses]
    have hwf : FrameWf ⟨c, e, o⟩ := ⟨hc, hform.packed.1, by dsimp only; omega⟩
    exact ⟨hcodes, ⟨hwf, (toTrie_ok_iff hc).1 ⟨_, htrie⟩, hcover, hform.packed⟩, hform.zero, by dsimp only; omega,
      fun hd => hform.whole (by rw [hd]; rfl)⟩
  · cases hpasses

theorem frameBytes_length (f : Frame) :
    (frameBytes f).length = 5 + (tableBytes f.table).length + f.packed.length := by
  simp [frameBytes, frameBytesWith]
  omega

/-- The frame of packed code bits has the length the layout gives it (30_encoding.md R75, R77). -/
theorem PackedForm.frameBytes_length {o : Bytes} {e : Byte} {bits : Bits} (h : PackedForm o e bits) (c : CodeTable) :
    (frameBytes ⟨c, e, o⟩).length = frameLength c bits.length := by
  rw [Machine.frameBytes_length, tableBytes_length, h.length]
  dsimp only [frameLength]
  omega

/-! ### Streams that were built -/

theorem wrStr_ok {b o : Bytes} (h : wrStr b = .ok o) : b.length ≤ Config.maxStr ∧ o = strBytes b := by
  by_cases hb : b.length ≤ Config.maxStr
  · exact ⟨hb, Except.ok.inj (h.symm.trans (wrStr_of_le hb))⟩
  · rw [wrStr_eq, if_neg hb] at h
    cases h

theorem headerWrite_ok {fold : Bool} {name o : Bytes} (h : headerWrite fold name = .ok o) :
    name.length ≤ Config.maxStr ∧ o = headerBytes fold name := by
  obtain ⟨n, hn, h'⟩ := (Except.bind_ok_iff _ _ _).1 h
  obtain ⟨hlen, -⟩ := wrStr_ok hn
  exact ⟨hlen, Except.ok.inj (h.symm.trans (headerWrite_of_le hlen))⟩

theorem dirEntry_ok {q o : Bytes} (h : dirEntry q = .ok o) : q.length ≤ Config.maxStr ∧ o = dirBytes q := by
  obtain ⟨tag, -, h'⟩ := (Except.bind_ok_iff _ _ _).1 h
  obtain ⟨p, hp, -⟩ := (Except.bind_ok_iff _ _ _).1 h'
  obtain ⟨hlen, -⟩ := wrStr_ok hp
  exact ⟨hlen, Except.ok.inj (h.symm.trans (dirEntry_of_le hlen))⟩

theorem fileEntry_ok {q o : Bytes} {f : Frame} (hf : FrameWf f) (h : fileEntry q f = .ok o) :
    q.length ≤ Config.maxStr ∧ o = fileBytes q f := by
  obtain ⟨tag, -, h'⟩ := (Except.bind_ok_iff _ _ _).1 h
  obtain ⟨p, hp, -⟩ := (Except.bind_ok_iff _ _ _).1 h'
  obtain ⟨hlen, -⟩ := wrStr_ok hp
  exact ⟨hlen, Except.ok.inj (h.symm.trans (fileEntry_of_wf hlen hf))⟩

theorem fileArchive_of_wf {name : Bytes} {f : Frame} (hn : name.length ≤ Config.maxStr) (hf : FrameWf f) :
    fileArchive name f = .ok (headerBytes false name ++ frameBytes f) := by
  rw [fileArchive, headerWrite_of_le hn, frameWrite_of_wf hf]
  rfl

theorem fileArchive_ok {name o : Bytes} {f : Frame} (hf : FrameWf f) (h : fileArchive name f = .ok o) :
    name.length ≤ Config.maxStr ∧ o = headerBytes false name ++ frameBytes f := by
  obtain ⟨b, hb, -⟩ := (Except.bind_ok_iff _ _ _).1 h
  obtain ⟨hlen, -⟩ := headerWrite_ok hb
  exact ⟨hlen, Except.ok.inj (h.symm.trans (fileArchive_of_wf hlen hf))⟩

end Sys2Proof.Machine
end

section
/-! PROOFS. Programs of requests that succeed on a host that keeps duty 4, whatever it draws (20_memory.md R57, R59): the value
and the disk they end with. -/

namespace Sys2Proof.Machine

open Sys2Proof.Certificates

theorem replyTo_eq_ioFail_iff {w : Draw} {fs : FileSystem} {q : HostReq} : replyTo w fs q = .ioFail ↔ w.fail = true := by
  refine ⟨fun h => ?_, fun h => replyTo_of_fail h fs q⟩
  by_contra hf
  unfold replyTo at h
  rw [if_neg hf] at h
  cases q with
  | stat p =>
    cases hp : fsLookup fs p with
    | none => simp [hp] at h
    | some n => cases n <;> cases hv : w.view <;> simp [hp, hv, viewReply] at h
  | read p =>
    cases hp : fsLookup fs p with
    | none => simp [hp] at h
    | some n => cases n <;> cases hd : w.dirData <;> simp [hp, hd, readReply] at h <;> split at h <;> cases h
  | _ => cases h

/-- Under duty 4 a request that is not answered IOFAIL has its whole effect (R57). -/
theorem HostSide.after_disk {h : HostSide} {q : HostReq} (hm : h.mayChange = false) (hf : h.draw.fail = false) :
    (h.after q).disk = ⟨filesOnOk h.archive q h.files, archiveAfter h.archive q (h.reply q)⟩ := by
  have hr : h.reply q ≠ .ioFail := fun hr => by
    rw [replyTo_eq_ioFail_iff.1 hr] at hf
    cases hf
  show Disk.mk (if h.reply q = .ioFail then _ else filesOnOk h.archive q h.found) _ = _
  rw [if_neg hr, HostSide.found_of_stable hm]
  rfl

/-- An append to the open archive adds to its bytes (R57). -/
theorem filesOnOk_append (fs : FileSystem) (out b o : Bytes) :
    filesOnOk (some out) (.append o) (fsInsert out (.file b) fs) = fsInsert out (.file (b ++ o)) fs := by
  show appendTo out o _ = _
  rw [appendTo, fsLookup_fsInsert_self]
  exact fsInsert_fsInsert ..

/-- On a host with disk `d` that keeps duty 4, wherever the program succeeds `Q` holds of its value and the disk then. -/
def Achieves {α : Type} (d : Disk) (x : Act α) (Q : α → Disk → Prop) : Prop :=
  ∀ h h' a, h.mayChange = false → h.disk = d → x h = (.ok a, h') → h'.mayChange = false ∧ Q a h'.disk

namespace Achieves

variable {α β : Type} {d : Disk} {Q : α → Disk → Prop}

theorem lift {r : Except Err α} (h : ∀ a, r = .ok a → Q a d) : Achieves d (Act.lift r) Q := by
  rintro hs _ a hm rfl hx
  cases hx
  exact ⟨hm, h a rfl⟩

theorem pure {a : α} (h : Q a d) : Achieves d (Act.pure a) Q := lift fun _ he => by cases he; exact h

theorem raise (e : Err) : Achieves d (Act.raise e : Act α) Q := lift fun _ he => by cases he

theorem bind {x : Act β} {f : β → Act α} {R : β → Disk → Prop} (hx : Achieves d x R)
    (hf : ∀ b d', R b d' → Achieves d' (f b) Q) : Achieves d (x.bind f) Q := by
  intro h h' a hm hd hrun
  obtain ⟨b, h1, hb, ha⟩ := (Act.bind_ok_iff ..).1 hrun
  obtain ⟨hm1, hR⟩ := hx h h1 b hm hd hb
  exact hf b _ hR h1 h' a hm1 rfl ha

theorem imp {x : Act α} {Q' : α → Disk → Prop} (hx : Achieves d x Q) (h : ∀ a d', Q a d' → Q' a d') : Achieves d x Q' :=
  fun hs h' a hm hd hrun => (hx hs h' a hm hd hrun).imp_right (h a _)

theorem closingOnError {x : Act α} (hx : Achieves d x Q) : Achieves d (Machine.closingOnError x) Q := by
  intro h h' a hm hd hrun
  rw [closingOnError_apply] at hrun
  split at hrun
  · next b h1 hb =>
    cases hrun
    exact hx h _ _ hm hd hb
  · cases hrun

/-! ### Single requests -/

variable {fs : FileSystem} {a : Option Bytes}

/-- A request, after which an IOFAIL does not lead to success. -/
theorem ask_bind {q : HostReq} {f : HostReply → Act α} (hfail : ∀ d', Achieves d' (f .ioFail) Q)
    (hok : ∀ w : Draw, w.fail = false →
      Achieves ⟨filesOnOk a q fs, archiveAfter a q (replyTo w fs q)⟩ (f (replyTo w fs q)) Q) :
    Achieves ⟨fs, a⟩ ((ask q).bind f) Q := by
  intro h h' b hm hd hrun
  obtain ⟨rfl, rfl⟩ := Disk.mk.inj hd
  have hrun : f (h.reply q) (h.after q) = (.ok b, h') := hrun
  cases hf : h.draw.fail with
  | true =>
    rw [show h.reply q = .ioFail from replyTo_of_fail hf _ _] at hrun
    exact hfail _ (h.after q) h' b hm rfl hrun
  | false =>
    have hreply : h.reply q = replyTo h.draw h.files q := by rw [HostSide.reply, HostSide.found_of_stable hm]
    rw [hreply] at hrun
    exact hok h.draw hf (h.after q) h' b hm (hreply ▸ HostSide.after_disk hm hf) hrun

/-- A request that is answered in one way, if not with IOFAIL. -/
theorem ask_bind_of_reply {q : HostReq} {r : HostReply} {f : HostReply → Act α}
    (hr : ∀ w : Draw, w.fail = false → replyTo w fs q = r) (hfail : ∀ d', Achieves d' (f .ioFail) Q)
    (hok : Achieves ⟨filesOnOk a q fs, archiveAfter a q r⟩ (f r) Q) : Achieves ⟨fs, a⟩ ((ask q).bind f) Q :=
  ask_bind hfail fun w hw => by rwa [hr w hw]

theorem demand {q : HostReq} (hq : (∃ p, q = .create p) ∨ (∃ b, q = .append b) ∨ q = .close ∨ (∃ p, q = .mkdirs p) ∨
    ∃ p b, q = .writeFile p b) :
    Achieves ⟨fs, a⟩ (Machine.demand q) fun _ d => d = ⟨filesOnOk a q fs, archiveAfter a q .ok⟩ :=
  ask_bind_of_reply (r := .ok) (fun w hw => by rw [replyTo_write _ _ _ hq, hw]; rfl) (fun _ => raise _) (pure rfl)

theorem readFile {p c : Bytes} (h : fsLookup fs p = some (.file c)) :
    Achieves ⟨fs, a⟩ (Machine.readFile p) fun b d => b = c ∧ d = ⟨fs, a⟩ := by
  refine ask_bind (fun _ => raise _) fun w hw => ?_
  have hreply : replyTo w fs (.read p) = readReply w c := by simp [replyTo, hw, h]
  rw [hreply, readReply]
  split
  · exact raise _
  · exact pure ⟨rfl, rfl⟩

theorem listNames (dir : Bytes) : Achieves ⟨fs, a⟩ (Machine.listNames dir)
    fun ns d => ns = sortBytes (children fs dir) ∧ d = ⟨fs, a⟩ := by
  refine ask_bind (fun _ => raise _) fun w hw => ?_
  have hreply : replyTo w fs (.list dir) = .names (arrange w.listing (children fs dir)) := by simp [replyTo, hw]
  rw [hreply]
  exact pure ⟨sortBytes_eq_of_perm (arrange_perm _ (children_nodup _ _)), rfl⟩

/-- Reading a file twice (46_operations.md R143). -/
theorem encodeHostFile {cap : Nat} {p c : Bytes} (h : fsLookup fs p = some (.file c)) :
    Achieves ⟨fs, a⟩ (Machine.encodeHostFile cap p) fun f d => encodePasses cap c c = .ok f ∧ d = ⟨fs, a⟩ := by
  refine (readFile h).bind ?_
  rintro _ _ ⟨rfl, rfl⟩
  refine (readFile h).bind ?_
  rintro _ _ ⟨rfl, rfl⟩
  exact lift fun f hf => ⟨hf, rfl⟩

/-- H_STAT of a file, after which an IOFAIL does not lead to success. -/
theorem stat_file_bind {p c : Bytes} {f : HostReply → Act α} (h : fsLookup fs p = some (.file c))
    (hfail : ∀ d', Achieves d' (f .ioFail) Q) (hok : Achieves ⟨fs, a⟩ (f .file) Q) :
    Achieves ⟨fs, a⟩ ((ask (.stat p)).bind f) Q :=
  ask_bind_of_reply (r := .file) (fun w hw => by simp [replyTo, hw, h]) hfail hok

/-- The same of a directory. -/
theorem stat_dir_bind {p : Bytes} {f : HostReply → Act α} (h : fsLookup fs p = some .dir)
    (hfail : ∀ d', Achieves d' (f .ioFail) Q) (hok : Achieves ⟨fs, a⟩ (f .dir) Q) :
    Achieves ⟨fs, a⟩ ((ask (.stat p)).bind f) Q :=
  ask_bind_of_reply (r := .dir) (fun w hw => by simp [replyTo, hw, h]) hfail hok

/-- A stream appended to the open archive. -/
theorem emitBuilt {cap : Nat} {out : Bytes} {r : Except Err Bytes} (b : Bytes) :
    Achieves (archiveDisk fs out b) (Machine.emitBuilt cap r)
      fun _ d => ∃ o, r = .ok o ∧ o.length ≤ cap ∧ d = archiveDisk fs out (b ++ o) := by
  refine bind (R := fun o d => privateStream cap r = .ok o ∧ d = archiveDisk fs out b) (lift fun o ho => ⟨ho, rfl⟩) ?_
  rintro o _ ⟨ho, rfl⟩
  obtain ⟨hr, hlen⟩ := (privateStream_ok_iff ..).1 ho
  refine (demand (.inr (.inl ⟨o, rfl⟩))).imp ?_
  rintro _ _ rfl
  exact ⟨o, hr, hlen, congrArg (Disk.mk · (some out)) (filesOnOk_append fs out b o)⟩

end Achieves

/-- An operation command that leaves ERR = 0 ran its requests to their end. -/
theorem actOf_of_err_zero {i : Instr} (hi : primitive i = false) (hp : i ≠ .prev) {s t : State} (h : exec i s = .next t)
    (herr : t.err = 0) : actOf i s s.host = (.ok (), t.host) := by
  rw [exec_operation hi hp, State.operate_eq, Host.Outcome.next.injEq] at h
  subst h
  rw [State.err_setStatus] at herr
  refine Prod.ext ?_ rfl
  cases hr : (actOf i s s.host).1 with
  | ok u => rfl
  | error e =>
    have hrange := errCode_range e
    rw [hr] at herr
    rw [show errCode e = 0 from herr] at hrange
    exact absurd hrange.1 (by decide)

end Sys2Proof.Machine
end

section
/-! PROOFS. What CFILE and CDIR leave where they succeed, on any host that keeps duty 4: the archive of the file or the tree
(46_operations.md R142, R145 to R149). -/

namespace Sys2Proof.Machine

open Sys2Proof.Certificates

/-- The archive that CFILE leaves holds the file's name and its frame, and no other path has changed (R142). -/
theorem achieves_compressFile {cap : Nat} {ext pin pout c : Bytes} {fs : FileSystem} {a : Option Bytes}
    (hfile : fsLookup fs pin = some (.file c)) :
    Achieves ⟨fs, a⟩ (compressFile cap ext pin pout) fun _ d => ∃ f, encodePasses cap c c = .ok f ∧
      validName (lastSeg pin) = true ∧ (lastSeg pin).length ≤ Config.maxStr ∧
      d.files = fsInsert (outPath ext pin pout) (.file (headerBytes false (lastSeg pin) ++ frameBytes f)) fs := by
  refine .stat_file_bind hfile (fun _ => .raise _) ?_
  dsimp only
  split
  · next hname =>
    refine (Achieves.encodeHostFile hfile).bind ?_
    rintro f _ ⟨hf, rfl⟩
    obtain ⟨-, ⟨hwf, -⟩, -⟩ := frameOf_of_encodePasses (frame := fun _ => f) hf
    refine Achieves.bind (R := fun o d => privateStream cap (fileArchive (lastSeg pin) f) = .ok o ∧ d = ⟨fs, a⟩)
      (.lift fun o ho => ⟨ho, rfl⟩) ?_
    rintro o _ ⟨ho, rfl⟩
    obtain ⟨hlen, rfl⟩ := fileArchive_ok hwf ((privateStream_ok_iff ..).1 ho).1
    refine (Achieves.demand (.inl ⟨_, rfl⟩)).bind ?_
    rintro _ _ rfl
    refine (Achieves.demand (.inr (.inl ⟨_, rfl⟩))).closingOnError.bind ?_
    rintro _ _ rfl
    refine (Achieves.demand (.inr (.inr (.inl rfl)))).imp ?_
    rintro _ _ rfl
    exact ⟨f, hf, hname, hlen, filesOnOk_append fs _ [] _⟩
  · exact .raise _

/-- The frame two passes give, where they give one. -/
def encodedFrame (cap : Nat) (c : Bytes) : Frame :=
  match encodePasses cap c c with
  | .ok f => f
  | .error _ => ⟨[], 8, []⟩

theorem encodedFrame_of_ok {cap : Nat} {c : Bytes} {f : Frame} (h : encodePasses cap c c = .ok f) :
    encodedFrame cap c = f := by
  rw [encodedFrame, h]

/-- With the archive open at `out`, the entries `es` were all written after `b`. -/
structure Appended (cap : Nat) (fs : FileSystem) (out b : Bytes) (es : List (Bytes × Option Bytes)) (d : Disk) : Prop where
  disk : d = archiveDisk fs out (b ++ entriesBytes (encodedFrame cap) es)
  fits : ∀ e ∈ es, WalkFits cap (encodedFrame cap) e

section

variable {cap levels : Nat} {fs : FileSystem} {out dir rel nm b : Bytes} {es : List (Bytes × Option Bytes)}

theorem Appended.nil : Appended cap fs out b [] (archiveDisk fs out b) :=
  ⟨congrArg _ (List.append_nil b).symm, nofun⟩

theorem Appended.append {es' : List (Bytes × Option Bytes)} {d : Disk}
    (h : Appended cap fs out (b ++ entriesBytes (encodedFrame cap) es) es' d)
    (hes : ∀ e ∈ es, WalkFits cap (encodedFrame cap) e) : Appended cap fs out b (es ++ es') d := by
  obtain ⟨rfl, hes'⟩ := h
  refine ⟨?_, List.forall_mem_append.2 ⟨hes, hes'⟩⟩
  rw [List.append_assoc, entriesBytes, entriesBytes, entriesBytes, List.flatMap_append]

theorem achieves_walkChild_file {c : Bytes} (b : Bytes) (ho : Outside out dir) (hn : nm ≠ [])
    (hc : fsLookup fs (join dir nm) = some (.file c)) :
    Achieves (archiveDisk fs out b) (walkChild cap levels dir rel nm)
      fun _ d => Appended cap fs out b [(join rel nm, some c)] d := by
  have hlook := (ho.lookup_archive hn fs b).trans hc
  refine .stat_file_bind hlook (fun _ => .raise _) ?_
  refine (Achieves.encodeHostFile hlook).bind ?_
  rintro f _ ⟨hf, rfl⟩
  obtain rfl := encodedFrame_of_ok hf
  have hframe := frameOf_of_encodePasses hf
  refine (Achieves.emitBuilt b).imp ?_
  rintro _ _ ⟨o, ho, hcap, rfl⟩
  obtain ⟨hlen, rfl⟩ := fileEntry_ok (frameOf_wf hframe) ho
  refine ⟨?_, List.forall_mem_singleton.2 ⟨hlen, hcap, fun c' hc' => ?_⟩⟩
  · simp [entriesBytes, walkEntryBytes]
  · obtain rfl := Option.some.inj hc'
    exact hframe

theorem achieves_walkChild_dir (b : Bytes) (ho : Outside out dir) (hn : nm ≠ [])
    (hc : fsLookup fs (join dir nm) = some .dir)
    (hsub : ∀ b, Achieves (archiveDisk fs out b) (walk cap levels (join dir nm) (join rel nm))
      fun _ d => Appended cap fs out b es d) :
    Achieves (archiveDisk fs out b) (walkChild cap levels dir rel nm)
      fun _ d => Appended cap fs out b ((join rel nm, none) :: es) d := by
  have hlook := (ho.lookup_archive hn fs b).trans hc
  refine .stat_dir_bind hlook (fun _ => .raise _) ?_
  refine (Achieves.emitBuilt b).bind ?_
  rintro _ _ ⟨o, ho, hcap, rfl⟩
  obtain ⟨hlen, rfl⟩ := dirEntry_ok ho
  refine (hsub _).imp fun _ d hd => Appended.append (es := [(join rel nm, none)]) ?_
    (List.forall_mem_singleton.2 ⟨hlen, hcap, nofun⟩)
  simpa [entriesBytes, walkEntryBytes] using hd

theorem achieves_forNames {step : Bytes → Act Unit} {f : Bytes → Option (List (Bytes × Option Bytes))} {names : List Bytes}
    {ess : List (List (Bytes × Option Bytes))}
    (hstep : ∀ nm ∈ names, ∀ es, f nm = some es → ∀ b, Achieves (archiveDisk fs out b) (step nm)
      fun _ d => Appended cap fs out b es d)
    (hf : allSome (names.map f) = some ess) (b : Bytes) :
    Achieves (archiveDisk fs out b) (forNames step names) fun _ d => Appended cap fs out b ess.flatten d := by
  induction names generalizing ess b with
  | nil =>
    cases hf
    exact .pure .nil
  | cons nm names ih =>
    obtain ⟨es, ess, hes, hess, rfl⟩ := allSome_cons_eq_some.1 hf
    refine (hstep nm List.mem_cons_self es hes b).bind ?_
    rintro _ _ ⟨rfl, hfits⟩
    exact (ih (fun nm' hm => hstep nm' (List.mem_cons_of_mem _ hm)) hess _).imp fun _ _ hd => hd.append hfits

/-- A walk that succeeds has appended the entries of the tree (R146, R147). -/
theorem achieves_walk {n : Nat} (ho : Outside out dir) (hes : treeEntries n fs dir rel = some es) (b : Bytes) :
    Achieves (archiveDisk fs out b) (walk cap n dir rel) fun _ d => Appended cap fs out b es d := by
  induction n generalizing dir rel es b with
  | zero => cases hes
  | succ n ih =>
    rw [treeEntries_succ] at hes
    obtain ⟨ess, hess, rfl⟩ := Option.map_eq_some_iff.1 hes
    rw [walk_succ]
    refine (Achieves.listNames dir).bind ?_
    rintro _ _ ⟨rfl, rfl⟩
    rw [show children (fsInsert out (.file b) fs) dir = _ from ho.children_archive fs b]
    refine achieves_forNames (fun nm hnm es hes b => ?_) hess b
    have hn := ne_nil_of_mem_sorted hnm
    unfold childEntries at hes
    cases hc : fsLookup fs (join dir nm) with
    | none => simp [hc] at hes
    | some node =>
      cases node with
      | special c => simp [hc] at hes
      | file c =>
        simp only [hc, Option.some.injEq] at hes
        subst hes
        exact achieves_walkChild_file b ho hn hc
      | dir =>
        simp only [hc] at hes
        obtain ⟨below, hbelow, rfl⟩ := Option.map_eq_some_iff.1 hes
        exact achieves_walkChild_dir b ho hn hc fun b => ih (ho.join nm) hbelow b

end

/-- The archive that CDIR leaves holds the root's name and the entries of the tree, and no other path has changed (R145). -/
theorem achieves_compressDirectory {cap depth : Nat} {ext pin pout : Bytes} {fs : FileSystem} {a : Option Bytes}
    {es : List (Bytes × Option Bytes)} (hdir : fsLookup fs pin = some .dir)
    (hout : descendant (outPath ext pin pout) pin = false) (hes : treeEntries depth fs pin [] = some es) :
    Achieves ⟨fs, a⟩ (compressDirectory cap depth ext pin pout) fun _ d => validName (lastSeg pin) = true ∧
      (lastSeg pin).length ≤ Config.maxStr ∧ (∀ e ∈ es, WalkFits cap (encodedFrame cap) e) ∧
      d.files = fsInsert (outPath ext pin pout)
        (.file (headerBytes true (lastSeg pin) ++ entriesBytes (encodedFrame cap) es)) fs := by
  refine .stat_dir_bind hdir (fun _ => .raise _) ?_
  dsimp only
  split
  · next hname =>
    refine (Achieves.demand (.inl ⟨_, rfl⟩)).bind ?_
    rintro _ _ rfl
    have hbody : Achieves (archiveDisk fs (outPath ext pin pout) []) (cdirBody cap depth pin) fun _ d =>
        (lastSeg pin).length ≤ Config.maxStr ∧
          Appended cap fs (outPath ext pin pout) (headerBytes true (lastSeg pin)) es d := by
      refine (Achieves.emitBuilt []).bind ?_
      rintro _ _ ⟨o, ho, -, rfl⟩
      obtain ⟨hlen, rfl⟩ := headerWrite_ok ho
      exact (achieves_walk (outside_pin hname hout) hes _).imp fun _ _ hd => ⟨hlen, hd⟩
    refine hbody.closingOnError.bind ?_
    rintro _ _ ⟨hlen, rfl, hfits⟩
    refine (Achieves.demand (.inr (.inr (.inl rfl)))).imp ?_
    rintro _ _ rfl
    exact ⟨hname, hlen, hfits, rfl⟩
  · exact .raise _

end Sys2Proof.Machine
end

section
/-! PROOFS. CFILE and DFILE on a host that serves them, and DFILE of an archive that was read (46_operations.md R142, R144). -/

namespace Sys2Proof.Machine

open Sys2Proof.Certificates

theorem Served.requests {h h' : HostSide} {es : List Event} {qs : List HostReq} (hs : Served h es h')
    (hes : es.map Prod.fst = qs) : h'.trace.map Prod.fst = h.trace.map Prod.fst ++ qs := by
  rw [hs.trace, List.map_append, hes]

/-- A part that ends with `r`, whatever that is, and then what is done with `r`. -/
theorem Performs.bind_lift {α β : Type} {d d' d'' : Disk} {qs qs' : List HostReq} {x : Act α} {f : α → Act β}
    {r : Except Err α} {r' : Except Err β} (hx : Performs d x qs r d')
    (hf : Performs d' ((Act.lift r).bind f) qs' r' d'') : Performs d (x.bind f) (qs ++ qs') r' d'' := by
  intro h hd hq
  rw [List.length_append] at hq
  obtain ⟨es, hs, rfl, hr, hd'⟩ := hx h hd (quiet_mono hq (Nat.le_add_right _ _))
  rw [List.length_map] at hq
  obtain ⟨es', hs', rfl, hr', hd''⟩ := hf _ hd' (quiet_served hs hq)
  have hrun : x.bind f h = (Act.lift r).bind f (x h).2 := by
    unfold Act.bind
    rw [show x h = (r, (x h).2) from Prod.ext hr rfl]
    rfl
  rw [hrun]
  exact ⟨es ++ es', hs.trans hs', List.map_append, hr', hd''⟩

/-! ### CFILE (R142) -/

theorem exec_cfile (s : State) {r : Except Err Unit} {h : HostSide}
    (hr : compressFile s.cap s.params.archiveExt s.pin s.pout s.host = (r, h)) :
    exec .cfile s = .next ((s.setHost h).setStatus 0x18#8 (endCode (resultError r))) := by
  rw [exec_operation rfl (by decide), State.operate_eq, actOf, hr]
  rfl

section

variable {cap : Nat} {ext pin pout c : Bytes} {fs : FileSystem} {a : Option Bytes}

/-- Two passes over a file, whatever they give (R143). -/
theorem performs_encodeHostFile (hfile : fsLookup fs pin = some (.file c)) :
    Performs ⟨fs, a⟩ (encodeHostFile cap pin) [.read pin, .read pin] (encodePasses cap c c) ⟨fs, a⟩ :=
  (Performs.readFile hfile).bind ((Performs.readFile hfile).bind (qs' := []) (.lift _))

/-- CFILE of a file with a valid name, up to its second H_READ. -/
theorem performs_compressFile {qs : List HostReq} {r : Except Err Unit} {d' : Disk}
    (hfile : fsLookup fs pin = some (.file c)) (hname : validName (lastSeg pin) = true)
    (h : Performs ⟨fs, a⟩ ((Act.lift (encodePasses cap c c)).bind fun f =>
      (Act.lift (privateStream cap (fileArchive (lastSeg pin) f))).bind (writeArchive (outPath ext pin pout))) qs r d') :
    Performs ⟨fs, a⟩ (compressFile cap ext pin pout) (.stat pin :: .read pin :: .read pin :: qs) r d' := by
  refine (Performs.stat_file hfile).bind (qs' := .read pin :: .read pin :: qs) ?_
  dsimp only
  rw [if_pos hname]
  exact (performs_encodeHostFile hfile).bind_lift h

theorem performs_writeArchive (out o : Bytes) :
    Performs ⟨fs, a⟩ (writeArchive out o) [.create out, .append o, .close] (.ok ())
      ⟨fsInsert out (.file o) fs, none⟩ := by
  have happend := filesOnOk_append fs out [] o
  rw [List.nil_append] at happend
  rw [← happend]
  exact (performs_create fs a out).bind
    ((Performs.demand (.inr (.inl ⟨o, rfl⟩))).closingOnError.bind (.demand (.inr (.inr (.inl rfl)))))

end

/-! ### DFILE (R144) -/

/-- The bytes of a single-file archive are opened as its name and contents (R144). -/
theorem openFileArchive_ok {cap : Nat} {name d : Bytes} {f : Frame} (hv : validName name = true)
    (hn : name.length ≤ Config.maxStr) (hf : Decodes f d) (hd : d.length ≤ cap) :
    openFileArchive cap (headerBytes false name ++ frameBytes f) = .ok (name, d) := by
  have hwf : FrameWf f := hf.1
  have hrest : RestAt (headerBytes false name ++ frameBytes f) (7 + name.length) (frameBytes f ++ []) :=
    ⟨_, by rw [List.append_nil], headerBytes_length false name⟩
  have hlen := hrest.length
  rw [List.append_nil] at hlen
  rw [openFileArchive_of_header hn rfl, hv, (frameRead_parses hwf (.refl _)).whole hrest,
    show frameBytesWith f.table f.eff f.packed = frameBytes f from rfl, hlen]
  show (require (7 + name.length + (frameBytes f).length == 7 + name.length + (frameBytes f).length) .malformed >>= fun _ =>
    decodePayload cap f >>= _) = _
  rw [beq_self_eq_true, decodePayload_of_decodes hf hd]
  rfl

theorem readThenOpen_of_ok {α : Type} {cap : Nat} {pin a : Bytes} {opened : Bytes → Except Err α}
    {rest : Bytes → α → Act Unit} {h : HostSide} {v : α} (ha : h.reply (.read pin) = .data a) (hcap : a.length ≤ cap)
    (hv : opened a = .ok v) : readThenOpen cap pin opened rest h = rest a v (h.after (.read pin)) := by
  rw [readThenOpen, Act.bind, readArchive_of_data _ ha hcap]
  simp only [hv, Act.lift_ok_bind]

/-- DFILE of an archive that was read and opened: one H_WRITEFILE, whatever it is answered. -/
theorem exec_dfile_of_ok {s : State} {a name d : Bytes} (ha : s.host.reply (.read s.pin) = .data a)
    (hcap : a.length ≤ s.cap) (hopen : openFileArchive s.cap a = .ok (name, d)) :
    ∃ t r, exec .dfile s = .next t ∧
      t.host.trace = s.host.trace ++ [(.read s.pin, .data a), (.writeFile (join s.pdst name) d, r)] := by
  rw [exec_dfile, decompressFile_eq, readThenOpen_of_ok ha hcap hopen, demand_apply]
  refine ⟨_, (s.host.after (.read s.pin)).reply (.writeFile (join s.pdst name) d), rfl, ?_⟩
  rw [State.setStatus_host, State.setHost_host, HostSide.after_trace, HostSide.after_trace, ha, List.append_assoc]
  rfl

/-- H_READ of a file on a host that serves it and keeps duty 4. -/
theorem HostSide.reply_read_file {h : HostSide} {p a : Bytes} (hm : h.mayChange = false) (hf : h.draw.fail = false)
    (hv : h.draw.view ≠ .missing) (ha : fsLookup h.files p = some (.file a)) : h.reply (.read p) = .data a := by
  rw [HostSide.reply, HostSide.found_of_stable hm]
  simp [replyTo, hf, ha, readReply, hv]

end Sys2Proof.Machine
end

section
/-! PROOFS. The statements about single-file archives (46_operations.md R142 to R144, R154). -/

namespace Sys2Proof.Proofs

open Sys2Proof Sys2Proof.Machine Sys2Proof.Certificates

/-- Settles O35: where CFILE succeeds the output holds the file's name and frame (`achieves_compressFile`), which DFILE opens as
the name and the bytes (`openFileArchive_ok`). -/
theorem cfileThenDfile : Obligations.CfileThenDfile := by
  intro s t u d hm hfile hcfile herr hfiles hum hfail hview hpin hd hcap
  have hrun := actOf_of_err_zero rfl (by decide) hcfile herr
  obtain ⟨-, f, hf, hv, hn, htfiles⟩ := achieves_compressFile hfile s.host t.host () hm rfl hrun
  obtain ⟨-, hdecodes, -⟩ := frameOf_of_encodePasses (frame := fun _ => f) hf
  have harchive : fsLookup u.host.files u.pin = some (.file (headerBytes false (lastSeg s.pin) ++ frameBytes f)) := by
    rw [hfiles, hpin, show t.host.files = _ from htfiles]
    exact fsLookup_fsInsert_self ..
  have hread := HostSide.reply_read_file hum hfail hview harchive
  obtain ⟨v, r, hdfile, htrace⟩ := exec_dfile_of_ok hread (hcap _ harchive) (openFileArchive_ok hv hn hdecodes hd)
  exact ⟨v, _, r, hdfile, htrace⟩

/-- Settles O33: CFILE reads the file twice, and the frame of its own codes and the archive built of it decide the rest
(`encodePasses_of_codes`). -/
theorem cfileWritesArchive : Obligations.CfileWritesArchive := by
  rintro s d c out hq hfile hv hn hcodes rfl
  obtain ⟨o, e, hform, hpasses⟩ := encodePasses_of_codes s.cap hcodes
  have hlen : (headerBytes false (lastSeg s.pin) ++ frameBytes ⟨c, e, o⟩).length =
      7 + (lastSeg s.pin).length + frameLength c (bitsOf c d).length := by
    rw [List.length_append, headerBytes_length, hform.frameBytes_length]
  have hencoded (hfit : PackFits s.cap c d) : FrameOf s.cap (fun _ => ⟨c, e, o⟩) d :=
    frameOf_of_encodePasses (hpasses.trans (if_pos hfit))
  have harchive (hfit : PackFits s.cap c d) :
      fileArchive (lastSeg s.pin) ⟨c, e, o⟩ = .ok (headerBytes false (lastSeg s.pin) ++ frameBytes ⟨c, e, o⟩) :=
    fileArchive_of_wf hn (frameOf_wf (frame := fun _ => ⟨c, e, o⟩) (hencoded hfit))
  constructor
  · intro hfit hcap
    obtain ⟨-, hdecodes, hzero, -, heff⟩ := hencoded hfit
    have hperf : Performs s.host.disk (compressFile s.cap s.params.archiveExt s.pin s.pout)
        [.stat s.pin, .read s.pin, .read s.pin, .create (outPath s.params.archiveExt s.pin s.pout),
          .append (headerBytes false (lastSeg s.pin) ++ frameBytes ⟨c, e, o⟩), .close] (.ok ())
        ⟨fsInsert (outPath s.params.archiveExt s.pin s.pout)
          (.file (headerBytes false (lastSeg s.pin) ++ frameBytes ⟨c, e, o⟩)) s.host.files, none⟩ := by
      refine performs_compressFile hfile hv ?_
      rw [hpasses, if_pos hfit, Act.lift_ok_bind, (privateStream_ok_iff ..).2 ⟨harchive hfit, hlen.trans_le hcap⟩,
        Act.lift_ok_bind]
      exact performs_writeArchive _ _
    obtain ⟨es, hs, hes, hr, hdisk⟩ := hperf s.host rfl hq
    have hfiles := congrArg Disk.files hdisk
    refine ⟨_, ⟨c, e, o⟩, exec_cfile s (Prod.ext hr rfl), rfl, rfl, hdecodes, hzero, heff, ?_, ?_, fun p hp => ?_⟩
    · exact hs.requests hes
    · exact (congrArg (fsLookup · _) hfiles).trans (fsLookup_fsInsert_self ..)
    · exact (congrArg (fsLookup · p) hfiles).trans (fsLookup_fsInsert_of_ne _ _ hp)
  · intro hbig
    have hperf : Performs s.host.disk (compressFile s.cap s.params.archiveExt s.pin s.pout)
        [.stat s.pin, .read s.pin, .read s.pin] (.error .capacityExceeded) s.host.disk := by
      refine performs_compressFile hfile hv ?_
      rw [hpasses]
      split
      · next hfit =>
        have hfull := hbig.resolve_left (not_not_intro hfit)
        rw [Act.lift_ok_bind, privateStream_eq, harchive hfit]
        dsimp only
        rw [if_neg (by omega)]
        exact .raise _
      · exact .raise _
    obtain ⟨es, hs, hes, hr, hdisk⟩ := hperf s.host rfl (quiet_mono hq (Nat.le_add_left 3 3))
    refine ⟨_, exec_cfile s (Prod.ext hr rfl), rfl, ?_, congrArg Disk.files hdisk⟩
    exact hs.requests hes

/-- Settles O34: the archive is opened as its name and contents (`openFileArchive_ok`), and one H_WRITEFILE follows. -/
theorem dfileRestoresFile : Obligations.DfileRestoresFile := by
  intro s name d f hq hfile hcap hv hn hf hd
  have hperf : Performs s.host.disk (decompressFile s.cap s.pin s.pdst) [.read s.pin, .writeFile (join s.pdst name) d]
      (.ok ()) (s.host.disk.writes [.writeFile (join s.pdst name) d]) := by
    refine (performs_readArchive hfile hcap).bind (qs' := [.writeFile (join s.pdst name) d]) ?_
    rw [openFileArchive_ok hv hn hf hd, Act.lift_ok_bind]
    exact performs_writeFile _ _ _
  obtain ⟨es, hs, hes, hr, hdisk⟩ := hperf s.host rfl hq
  have hfiles := congrArg Disk.files hdisk
  refine ⟨_, exec_dfile s, ?_, ?_, ?_, fun p hp => ?_⟩
  · rw [hr]
    rfl
  · exact hs.requests hes
  · exact (congrArg (fsLookup · _) hfiles).trans (fsLookup_fsInsert_self ..)
  · exact (congrArg (fsLookup · p) hfiles).trans (fsLookup_fsInsert_of_ne _ _ hp)

end Sys2Proof.Proofs
end

section
/-! PROOFS. DDIR of a whole folder archive on a host that serves it, and what its write requests leave at each path
(46_operations.md R150, R151; 20_memory.md R57). -/

namespace Sys2Proof.Machine

open Sys2Proof.Certificates

/-- DDIR of an archive whose entries can all be recreated: the root directory, and then the entries to the end. -/
theorem performs_decompressDirectory_whole {cap : Nat} {frame : Bytes → Frame} {pin pdst root : Bytes}
    {es : List (Bytes × Option Bytes)} {fs : FileSystem} {o : Option Bytes}
    (hfile : fsLookup fs pin = some (.file (headerBytes true root ++ entriesBytes frame es)))
    (hcap : (headerBytes true root ++ entriesBytes frame es).length ≤ cap) (hv : validName root = true)
    (hn : root.length ≤ Config.maxStr) (hes : ∀ x ∈ es, Recreatable cap frame x) :
    Performs ⟨fs, o⟩ (decompressDirectory cap pin pdst)
      (.read pin :: .mkdirs (join pdst root) :: es.flatMap (entryRequests (join pdst root))) (.ok ())
      ((Disk.mk fs o).writes (.mkdirs (join pdst root) :: es.flatMap (entryRequests (join pdst root)))) := by
  have hrest : RestAt (headerBytes true root ++ entriesBytes frame es) (headerBytes true root).length
      (entriesBytes frame es ++ []) := ⟨_, by rw [List.append_nil], rfl⟩
  have hlen := hrest.length
  have hcount := length_le_entriesBytes hes
  rw [List.append_nil] at hlen
  obtain ⟨k, hk⟩ : ∃ k, (headerBytes true root ++ entriesBytes frame es).length + 1 = es.length + (k + 1) :=
    ⟨(headerBytes true root ++ entriesBytes frame es).length - es.length, by omega⟩
  have hloop := performs_applyEntries (base := join pdst root) (d := (Disk.mk fs o).writes [.mkdirs (join pdst root)])
    (k := k + 1) (qs := []) hes hrest (by rw [applyEntries_succ, ← hlen, entryRead_end]; exact .pure ())
  rw [List.append_nil, ← hk] at hloop
  exact performs_decompressDirectory hfile hcap (openFolder_of_header hv hn rfl) hloop

/-! ### Paths after a write request (20_memory.md R57) -/

/-- H_MKDIRS makes the directory, and every ancestor that named nothing. -/
theorem Disk.lookup_mkdirs (d : Disk) (p q : Bytes) : fsLookup (d.write (.mkdirs p)).files q =
    if q = p ∨ q ∈ pathChain p ∧ fsLookup d.files q = none then some .dir else fsLookup d.files q := by
  show fsLookup (fsInsert p .dir (makeDirs (missingDirs d.files p) d.files)) q = _
  rw [fsLookup_fsInsert, fsLookup_makeDirs]
  by_cases hq : p = q
  · rw [if_pos hq, if_pos (.inl hq.symm)]
  · rw [if_neg hq]
    exact if_congr (by rw [mem_missingDirs, or_iff_right (Ne.symm hq)]) rfl rfl

theorem Disk.lookup_write_of_untouched {d : Disk} {q : HostReq} {p : Bytes} (hq : (writePath q).isSome = true)
    (hp : p ∉ touched q) : fsLookup (d.write q).files p = fsLookup d.files p := by
  cases q with
  | mkdirs r =>
    have hself : r ∈ pathChain r := mem_pathChain.2 (.inl rfl)
    have hchain : p ∉ pathChain r := hp
    exact (d.lookup_mkdirs r p).trans (if_neg (by rintro (rfl | ⟨h, -⟩) <;> contradiction))
  | writeFile r b => exact fsLookup_fsInsert_of_ne _ _ (by simpa [touched] using hp)
  | _ => cases hq

/-- A path that no request touches keeps its node. -/
theorem Disk.lookup_writes_of_untouched {d : Disk} {qs : List HostReq} {p : Bytes}
    (hqs : ∀ q ∈ qs, (writePath q).isSome = true) (hp : ∀ q ∈ qs, p ∉ touched q) :
    fsLookup (d.writes qs).files p = fsLookup d.files p := by
  induction qs generalizing d with
  | nil => rfl
  | cons q qs ih =>
    obtain ⟨hq, hqs⟩ := List.forall_mem_cons.1 hqs
    obtain ⟨hpq, hp⟩ := List.forall_mem_cons.1 hp
    exact (ih hqs hp).trans (Disk.lookup_write_of_untouched hq hpq)

theorem entryRequests_write {base : Bytes} {e : Bytes × Option Bytes} {q : HostReq} (hq : q ∈ entryRequests base e) :
    (writePath q).isSome = true := by
  obtain ⟨p, _ | c⟩ := e
  · rw [List.mem_singleton.1 hq]
    rfl
  · rcases List.mem_append.1 hq with hq | hq
    · split at hq
      · cases hq
      · rw [List.mem_singleton.1 hq]
        rfl
    · rw [List.mem_singleton.1 hq]
      rfl

/-! ### Requests that agree with what is wanted at each path -/

/-- At every path that the request may write, what it writes there is what `want` asks for, if it asks for anything. -/
def Agrees (want : Bytes → FsNode → Prop) : HostReq → Prop
  | .mkdirs p => ∀ a ∈ pathChain p, ∀ n, want a n → n = .dir
  | .writeFile p b => ∀ n, want p n → n = .file b
  | _ => False

section

variable {want : Bytes → FsNode → Prop} {d : Disk} {q : HostReq} {qs : List HostReq} {p : Bytes} {n : FsNode}

theorem Agrees.keeps (hq : Agrees want q) (hwant : want p n) (hp : fsLookup d.files p = some n) :
    fsLookup (d.write q).files p = some n := by
  cases q with
  | mkdirs r =>
    refine (d.lookup_mkdirs r p).trans ?_
    split
    · next h =>
      have hchain : p ∈ pathChain r := h.elim (fun h => mem_pathChain.2 (.inl h)) And.left
      rw [hq p hchain n hwant]
    · exact hp
  | writeFile r b =>
    refine (fsLookup_fsInsert ..).trans ?_
    split
    · next h =>
      subst h
      rw [hq n hwant]
    · exact hp
  | _ => exact hq.elim

theorem Agrees.makes (hq : Agrees want q) (hwant : want p n) (hp : writePath q = some p) :
    fsLookup (d.write q).files p = some n := by
  cases q with
  | mkdirs r =>
    cases hp
    rw [hq p (mem_pathChain.2 (.inl rfl)) n hwant]
    exact fsLookup_fsInsert_self ..
  | writeFile r b =>
    cases hp
    rw [hq n hwant]
    exact fsLookup_fsInsert_self ..
  | _ => exact hq.elim

theorem lookup_writes_kept (hqs : ∀ q ∈ qs, Agrees want q) (hwant : want p n) (hp : fsLookup d.files p = some n) :
    fsLookup (d.writes qs).files p = some n := by
  induction qs generalizing d with
  | nil => exact hp
  | cons q qs ih =>
    obtain ⟨hq, hqs⟩ := List.forall_mem_cons.1 hqs
    exact ih hqs (hq.keeps hwant hp)

/-- A path that some request writes ends with the node wanted there, where every request agrees with what is wanted. -/
theorem lookup_writes_made (hqs : ∀ q ∈ qs, Agrees want q) (hwant : want p n) (hmem : q ∈ qs)
    (hp : writePath q = some p) : fsLookup (d.writes qs).files p = some n := by
  induction qs generalizing d with
  | nil => cases hmem
  | cons q' qs ih =>
    obtain ⟨hhead, htail⟩ := List.forall_mem_cons.1 hqs
    rcases List.mem_cons.1 hmem with rfl | hmem
    · exact lookup_writes_kept (d := d.write q) htail hwant (hhead.makes hwant hp)
    · exact ih htail hmem

end

end Sys2Proof.Machine
end

section
/-! PROOFS. The entries of a tree: their paths are valid, no two of them ask for different nodes at one path, and what is above
an entry is a directory (46_operations.md R146, R148). -/

namespace Sys2Proof.Machine

open Sys2Proof.Certificates

/-- The node an entry stands for: a directory, or a file with these contents. -/
def entryNode : Option Bytes → FsNode
  | none => .dir
  | some c => .file c

theorem join_ne_nil (a : Bytes) {b : Bytes} (hb : b ≠ []) : join a b ≠ [] := by
  unfold join
  split
  · exact hb
  · simp

theorem join_assoc (a c : Bytes) {b : Bytes} (hb : b ≠ []) : join (join a b) c = join a (join b c) := by
  rw [join_of_ne_nil (join_ne_nil a hb), join_of_ne_nil hb]
  unfold join
  split
  · rfl
  · simp

theorem validPath_join {a b : Bytes} (ha : validPath a = true) (hb : validPath b = true) :
    validPath (join a b) = true := by
  by_cases hnil : a = []
  · rwa [join, if_pos hnil]
  · have hsegments : segments (join a b) = segments a ++ segments b := by
      rw [join_of_ne_nil hnil, List.append_assoc]
      simp only [segments_eq_splitOn]
      exact List.splitOn_append_cons_self a b
    rw [validPath_iff] at ha hb ⊢
    rw [hsegments]
    exact List.forall_mem_append.2 ⟨ha, hb⟩

theorem validName_iff {q : Bytes} : validName q = true ↔ validPath q = true ∧ Config.sep ∉ q := by
  simp [validName]

/-- The entry at the path `x` below the directory `dir` with the contents `c`: the filesystem has its node there, and
directories above it. -/
structure TreeEntry (fs : FileSystem) (dir x : Bytes) (c : Option Bytes) : Prop where
  path : validPath x = true
  node : fsLookup fs (join dir x) = some (entryNode c)
  above : ∀ y r, x = y ++ [Config.sep] ++ r → fsLookup fs (join dir y) = some .dir

section

variable {fs : FileSystem} {dir rel nm x : Bytes} {c : Option Bytes} {n : Nat} {es : List (Bytes × Option Bytes)}

theorem TreeEntry.of_child (hv : validName nm = true) (hc : fsLookup fs (join dir nm) = some (entryNode c)) :
    TreeEntry fs dir nm c := by
  obtain ⟨hpath, hsep⟩ := validName_iff.1 hv
  exact ⟨hpath, hc, fun y r h => absurd (h ▸ by simp) hsep⟩

/-- What lies below a child that is a directory lies below the directory. -/
theorem TreeEntry.below (hv : validName nm = true) (hc : fsLookup fs (join dir nm) = some .dir)
    (h : TreeEntry fs (join dir nm) x c) : TreeEntry fs dir (join nm x) c := by
  obtain ⟨hpath, hsep⟩ := validName_iff.1 hv
  have hn := validName_ne_nil hv
  obtain ⟨hx, hnode, habove⟩ := h
  rw [join_assoc _ _ hn] at hnode
  refine ⟨validPath_join hpath hx, hnode, fun y r hy => ?_⟩
  rw [join_of_ne_nil hn, List.append_assoc, List.append_assoc] at hy
  rcases List.append_eq_append_iff.1 hy with ⟨z, rfl, hz⟩ | ⟨z, hz, hz'⟩
  · cases z with
    | nil => rwa [List.append_nil]
    | cons b z =>
      obtain ⟨rfl, hx⟩ := List.cons.inj hz
      have hdir := habove z r (by rw [List.append_assoc]; exact hx)
      rw [join_assoc _ _ hn, join_of_ne_nil hn, List.append_assoc] at hdir
      exact hdir
  · cases z with
    | nil =>
      rw [List.append_nil] at hz
      rwa [← hz]
    | cons b z =>
      obtain ⟨rfl, -⟩ := List.cons.inj hz'
      exact absurd (hz ▸ by simp) hsep

theorem exists_of_mem_allSome {α β : Type} {f : α → Option (List β)} {names : List α} {ess : List (List β)} {e : β}
    (h : allSome (names.map f) = some ess) (he : e ∈ ess.flatten) : ∃ nm ∈ names, ∃ es, f nm = some es ∧ e ∈ es := by
  induction names generalizing ess with
  | nil =>
    cases h
    cases he
  | cons nm names ih =>
    obtain ⟨es, ess, hes, hess, rfl⟩ := allSome_cons_eq_some.1 h
    rcases List.mem_append.1 (List.flatten_cons ▸ he) with he | he
    · exact ⟨nm, List.mem_cons_self, es, hes, he⟩
    · obtain ⟨nm', hm, h'⟩ := ih hess he
      exact ⟨nm', List.mem_cons_of_mem _ hm, h'⟩

/-- Each entry of a walk is an entry of the tree, its path taken below `rel` (R146, R148). -/
theorem treeEntry_of_mem (hes : treeEntries n fs dir rel = some es) {e : Bytes × Option Bytes} (he : e ∈ es) :
    ∃ x, e.1 = join rel x ∧ TreeEntry fs dir x e.2 := by
  induction n generalizing dir rel es with
  | zero => cases hes
  | succ n ih =>
    rw [treeEntries_succ] at hes
    obtain ⟨ess, hess, rfl⟩ := Option.map_eq_some_iff.1 hes
    obtain ⟨nm, hnm, es, hes, he⟩ := exists_of_mem_allSome hess he
    have hv := (mem_children.1 ((sortBytes_perm _).mem_iff.1 hnm)).1
    unfold childEntries at hes
    cases hc : fsLookup fs (join dir nm) with
    | none => simp [hc] at hes
    | some node =>
      cases node with
      | special c => simp [hc] at hes
      | file c =>
        simp only [hc, Option.some.injEq] at hes
        subst hes
        obtain rfl := List.mem_singleton.1 he
        exact ⟨nm, rfl, .of_child hv hc⟩
      | dir =>
        simp only [hc] at hes
        obtain ⟨below, hbelow, rfl⟩ := Option.map_eq_some_iff.1 hes
        rcases List.mem_cons.1 he with rfl | he
        · exact ⟨nm, rfl, .of_child hv hc⟩
        · obtain ⟨x, hx, hentry⟩ := ih hbelow he
          exact ⟨join nm x, hx.trans (join_assoc _ _ (validName_ne_nil hv)), hentry.below hv hc⟩

theorem treeEntry_of_mem_root (hes : treeEntries n fs dir [] = some es) :
    ∀ e ∈ es, TreeEntry fs dir e.1 e.2 := fun e he => by
  obtain ⟨x, hx, h⟩ := treeEntry_of_mem hes he
  rwa [hx]

end

/-! ### DDIR's requests for the entries of a tree -/

/-- What DDIR is to leave: the root directory, and below it the node of every entry. -/
def Wanted (base : Bytes) (es : List (Bytes × Option Bytes)) (p : Bytes) (n : FsNode) : Prop :=
  (p = base ∧ n = .dir) ∨ ∃ e ∈ es, p = join base e.1 ∧ n = entryNode e.2

section

variable {fs : FileSystem} {dir base p q : Bytes} {es : List (Bytes × Option Bytes)} {e : Bytes × Option Bytes}

theorem join_inj (hb : base ≠ []) (h : join base p = join base q) : p = q := by
  rw [join_of_ne_nil hb, join_of_ne_nil hb] at h
  exact List.append_cancel_left h

theorem join_not_prefix (hb : base ≠ []) (p r : Bytes) : base ≠ join base p ++ r := fun h => by
  rw [join_of_ne_nil hb] at h
  simpa using congrArg List.length h

theorem base_ne_join (hb : base ≠ []) (p : Bytes) : base ≠ join base p := fun h =>
  join_not_prefix hb p [] (h.trans (List.append_nil _).symm)

theorem mem_pathChain_join (hb : base ≠ []) (h : join base p ∈ pathChain (join base q)) :
    p = q ∨ ∃ r, q = p ++ [Config.sep] ++ r := by
  rcases mem_pathChain.1 h with h | ⟨-, r, h⟩
  · exact .inl (join_inj hb h)
  · rw [join_of_ne_nil hb, join_of_ne_nil hb] at h
    exact .inr ⟨r, List.append_cancel_left (as := base ++ [Config.sep]) (by simpa using h)⟩

theorem agrees_mkdirs_base (hb : base ≠ []) : Agrees (Wanted base es) (.mkdirs base) := by
  rintro a ha n (⟨-, rfl⟩ | ⟨e, -, rfl, rfl⟩)
  · rfl
  · rcases mem_pathChain.1 ha with h | ⟨-, r, h⟩
    · exact absurd h.symm (base_ne_join hb _)
    · exact absurd (h.trans (List.append_assoc ..)) (join_not_prefix hb _ _)

/-- A directory can be made below the root where all entries at it and above it are directories. -/
theorem agrees_mkdirs_join (hb : base ≠ [])
    (h : ∀ e ∈ es, (e.1 = q ∨ ∃ r, q = e.1 ++ [Config.sep] ++ r) → entryNode e.2 = .dir) :
    Agrees (Wanted base es) (.mkdirs (join base q)) := by
  rintro a ha n (⟨-, rfl⟩ | ⟨e, he, rfl, rfl⟩)
  · rfl
  · exact h e he (mem_pathChain_join hb ha)

/-- Two entries at one path stand for the same node, and an entry above another is a directory. -/
theorem TreeEntry.node_above {x : Bytes} {c : Option Bytes} (h : TreeEntry fs dir x c) (he : TreeEntry fs dir e.1 e.2) :
    (e.1 = x → entryNode e.2 = entryNode c) ∧ ∀ r, x = e.1 ++ [Config.sep] ++ r → entryNode e.2 = .dir := by
  obtain ⟨-, hnode, habove⟩ := h
  refine ⟨fun hx => ?_, fun r hx => Option.some.inj (he.node.symm.trans (habove _ r hx))⟩
  rw [← hx] at hnode
  exact Option.some.inj (he.node.symm.trans hnode)

theorem eq_parent_append (h : parent q ≠ []) : q = parent q ++ [Config.sep] ++ lastSeg q := by
  by_cases hsep : Config.sep ∈ q
  · obtain ⟨p, l, rfl, hl⟩ := exists_last_sep hsep
    rw [parent_append_last hl, lastSeg_append_last hl]
  · exact absurd (parent_of_sep_notMem hsep) h

theorem agrees_entryRequests (hb : base ≠ []) (hes : ∀ e ∈ es, TreeEntry fs dir e.1 e.2) (he : e ∈ es) :
    ∀ r ∈ entryRequests base e, Agrees (Wanted base es) r := by
  have hentry := hes e he
  have hnodes := fun e' he' => hentry.node_above (hes e' he')
  obtain ⟨q, _ | c⟩ := e
  · refine List.forall_mem_singleton.2 (agrees_mkdirs_join hb fun e' he' h => ?_)
    rcases h with h | ⟨r, h⟩
    · exact (hnodes e' he').1 h
    · exact (hnodes e' he').2 r h
  · refine List.forall_mem_append.2 ⟨?_, List.forall_mem_singleton.2 ?_⟩
    · dsimp only
      split
      · exact nofun
      · next hp =>
        have hq := eq_parent_append hp
        refine List.forall_mem_singleton.2 (agrees_mkdirs_join hb fun e' he' h => ?_)
        rcases h with h | ⟨r, h⟩
        · exact (hnodes e' he').2 (lastSeg q) (h ▸ hq)
        · exact (hnodes e' he').2 (r ++ [Config.sep] ++ lastSeg q) (hq.trans (by rw [h]; simp))
    · rintro n (⟨h, -⟩ | ⟨e', he', h, rfl⟩)
      · exact absurd h.symm (base_ne_join hb _)
      · exact (hnodes e' he').1 (join_inj hb h).symm

theorem exists_entryRequest (base : Bytes) (e : Bytes × Option Bytes) :
    ∃ r ∈ entryRequests base e, writePath r = some (join base e.1) := by
  obtain ⟨q, _ | c⟩ := e
  · exact ⟨_, List.mem_singleton_self _, rfl⟩
  · exact ⟨_, List.mem_append_right _ (List.mem_singleton_self _), rfl⟩

/-- DDIR's requests for a tree leave the root directory and every entry of the tree (R150, R151, R153). -/
theorem lookup_writes_tree (d : Disk) (hb : base ≠ []) (hes : ∀ e ∈ es, TreeEntry fs dir e.1 e.2) :
    fsLookup (d.writes (.mkdirs base :: es.flatMap (entryRequests base))).files base = some .dir ∧
      ∀ e ∈ es, fsLookup (d.writes (.mkdirs base :: es.flatMap (entryRequests base))).files (join base e.1) =
        some (entryNode e.2) := by
  have hagrees : ∀ r ∈ HostReq.mkdirs base :: es.flatMap (entryRequests base), Agrees (Wanted base es) r := by
    refine List.forall_mem_cons.2 ⟨agrees_mkdirs_base hb, fun r hr => ?_⟩
    obtain ⟨e, he, hr⟩ := List.mem_flatMap.1 hr
    exact agrees_entryRequests hb hes he r hr
  refine ⟨lookup_writes_made hagrees (.inl ⟨rfl, rfl⟩) List.mem_cons_self rfl, fun e he => ?_⟩
  obtain ⟨r, hr, hpath⟩ := exists_entryRequest base e
  exact lookup_writes_made hagrees (.inr ⟨e, he, rfl, rfl⟩)
    (List.mem_cons_of_mem _ (List.mem_flatMap.2 ⟨e, he, hr⟩)) hpath

end

end Sys2Proof.Machine
end

section
/-! PROOFS. The statements about folder archives (46_operations.md R145 to R153). -/

namespace Sys2Proof.Proofs

open Sys2Proof Sys2Proof.Machine Sys2Proof.Certificates

/-- Settles O37: DDIR makes the requests of the root and of each entry in order (`performs_decompressDirectory_whole`, by
induction on the entries), and each of them writes only the paths it touches. -/
theorem ddirRecreatesEntries : Obligations.DdirRecreatesEntries := by
  rintro s root base es frame qs hfile hcap hv hn rfl hpaths hpay rfl hq
  have hes : ∀ x ∈ es, Recreatable s.cap frame x := fun x hx => ⟨(hpaths x hx).1, (hpaths x hx).2, hpay x hx⟩
  obtain ⟨ev, hs, hev, hr, hdisk⟩ := performs_decompressDirectory_whole (pdst := s.pdst) (o := s.host.archive) hfile hcap hv
    hn hes s.host rfl (by rwa [List.length_cons, Nat.add_comm])
  refine ⟨_, exec_ddir s, ?_, ?_, fun p hp => ?_⟩
  · rw [hr]
    rfl
  · rw [List.append_assoc]
    exact hs.requests hev
  · refine (congrArg (fun d => fsLookup d.files p) hdisk).trans (Disk.lookup_writes_of_untouched ?_ hp)
    refine List.forall_mem_cons.2 ⟨rfl, fun q hq => ?_⟩
    obtain ⟨e, -, hq⟩ := List.mem_flatMap.1 hq
    exact entryRequests_write hq

/-- Settles O38: where CDIR succeeds its archive holds the tree's entries (`achieves_compressDirectory`), DDIR recreates each of
them, and their requests leave the tree's nodes because each entry lies below directories (`lookup_writes_tree`). -/
theorem cdirThenDdir : Obligations.CdirThenDdir := by
  rintro s t u out base es hm hdir rfl hout hes hcdir herr hfiles hpin hd hcap rfl hq
  have hrun := actOf_of_err_zero rfl (by decide) hcdir herr
  obtain ⟨-, hv, hn, hfits, htfiles⟩ := achieves_compressDirectory hdir hout hes s.host t.host () hm rfl hrun
  have htree := treeEntry_of_mem_root hes
  have harchive : fsLookup u.host.files u.pin =
      some (.file (headerBytes true (lastSeg s.pin) ++ entriesBytes (encodedFrame s.cap) es)) := by
    rw [hfiles, hpin, show t.host.files = _ from htfiles]
    exact fsLookup_fsInsert_self ..
  have hrecreate : ∀ e ∈ es, Recreatable u.cap (encodedFrame s.cap) e := fun e he =>
    ⟨(htree e he).path, (hfits e he).path, fun c hc => ⟨((hfits e he).frames c hc).2.1, hd e he c hc⟩⟩
  obtain ⟨ev, hs, hev, hr, hdisk⟩ := performs_decompressDirectory_whole (pdst := u.pdst) (o := u.host.archive) harchive
    (hcap _ (hpin ▸ harchive)) hv hn hrecreate u.host rfl
    (by rwa [List.length_cons, List.length_cons, Nat.add_assoc, Nat.add_comm])
  have hbase : join u.pdst (lastSeg s.pin) ≠ [] := join_ne_nil _ (validName_ne_nil hv)
  obtain ⟨hroot, hentries⟩ := lookup_writes_tree (Disk.mk u.host.files u.host.archive) hbase htree
  have hlookup (p : Bytes) : fsLookup (decompressDirectory u.cap u.pin u.pdst u.host).2.files p = _ :=
    congrArg (fun d => fsLookup d.files p) hdisk
  refine ⟨_, exec_ddir u, ?_, (hlookup _).trans hroot, fun e he => ((hlookup _).trans (hentries e he)).trans ?_⟩
  · rw [State.err_setStatus, hr]
    rfl
  · obtain ⟨q, _ | c⟩ := e <;> rfl

end Sys2Proof.Proofs
end

section
/-! PROOFS. PREV on the entries of a folder archive whose payloads are any bytes, and what it leaves (46_operations.md R157 to
R161). -/

namespace Sys2Proof.Machine

open Sys2Proof.Certificates

/-! ### Stepping over an entry (44_container.md R130) -/

/-- An entry that can be stepped over: its path is a string field, and the lengths inside its payload fit their fields. -/
def RawFits (e : Bytes × Option RawFrame) : Prop := e.1.length ≤ Config.maxStr ∧ ∀ f, e.2 = some f → f.Fits

/-- What stepping over an entry finds. -/
def skipped (e : Bytes × Option RawFrame) : Entry Unit :=
  match e.2 with
  | none => .dir e.1
  | some _ => .file e.1 ()

theorem entrySkip_dir {s y q : Bytes} {p : Nat} (hq : q.length ≤ Config.maxStr) (h : RestAt s p (dirBytes q ++ y)) :
    entrySkip s p = .ok (.dir q, p + (dirBytes q).length) := by
  have hne : p ≠ s.length := by
    rw [h.length, List.length_append, dirBytes_length]
    omega
  have htag : RestAt s p (strBytes tagDir ++ (strBytes q ++ y)) := h
  rw [entrySkip, entryReadWith, if_neg hne, (rdStr_parses (by decide)).whole htag]
  show (rdStr s (p + (strBytes tagDir).length) >>= fun r => .ok (Entry.dir r.1, r.2)) = _
  rw [(rdStr_parses hq).whole htag.tail, Nat.add_assoc, ← List.length_append]
  rfl

theorem entrySkip_file {s y q : Bytes} {p : Nat} {f : RawFrame} (hq : q.length ≤ Config.maxStr) (hf : f.Fits)
    (h : RestAt s p (rawEntryBytes (q, some f) ++ y)) :
    entrySkip s p = .ok (.file q (), p + (rawEntryBytes (q, some f)).length) := by
  have htag : RestAt s p (strBytes tagFile ++ (strBytes q ++ (rawFrameBytes f ++ y))) := by
    rw [rawEntryBytes, List.append_assoc, List.append_assoc] at h
    exact h
  have hne : p ≠ s.length := by
    rw [htag.length, List.length_append, strBytes_length]
    omega
  rw [entrySkip, entryReadWith, if_neg hne, (rdStr_parses (by decide)).whole htag]
  show (rdStr s (p + (strBytes tagFile).length) >>= fun r => (frameSkip s r.2 >>= fun p' => .ok ((), p')) >>= fun v =>
    .ok (Entry.file r.1 v.1, v.2)) = _
  rw [(rdStr_parses hq).whole htag.tail]
  show ((frameSkip s (p + (strBytes tagFile).length + (strBytes q).length) >>= fun p' => .ok ((), p')) >>= fun v =>
    .ok (Entry.file q v.1, v.2)) = _
  rw [(frameSkip_skips hf).whole htag.tail.tail, Nat.add_assoc, Nat.add_assoc, ← List.length_append,
    ← List.length_append, ← List.append_assoc]
  rfl

theorem entrySkip_rawEntry {s y : Bytes} {p : Nat} {e : Bytes × Option RawFrame} (he : RawFits e)
    (h : RestAt s p (rawEntryBytes e ++ y)) : entrySkip s p = .ok (skipped e, p + (rawEntryBytes e).length) := by
  obtain ⟨hq, hf⟩ := he
  obtain ⟨q, _ | f⟩ := e
  · exact entrySkip_dir hq h
  · exact entrySkip_file hq (hf f rfl) h

theorem entrySkip_end (s : Bytes) : entrySkip s s.length = .ok (.stop, s.length) := if_pos rfl

theorem rawEntryBytes_pos (e : Bytes × Option RawFrame) : 0 < (rawEntryBytes e).length := by
  obtain ⟨q, _ | f⟩ := e <;> simp [rawEntryBytes, dirBytes]

/-! ### PREV's loop (R158, R160) -/

/-- The stack after an entry: a directory may be an ancestor of what follows. -/
def stackAfter (e : Bytes × Option RawFrame) (stack : List Bytes) : List Bytes :=
  if e.2.isNone then e.1 :: popTo e.1 stack else popTo e.1 stack

section

variable {a r root : Bytes} {fuel k p p' : Nat} {stack : List Bytes} {e : Bytes × Option RawFrame}
  {es : List (Bytes × Option RawFrame)} {err : Option Err}

theorem previewEntries_of_skip (h : entrySkip a p = .ok (skipped e, p')) :
    previewEntries a (fuel + 1) p stack =
      (previewItem e.1 (popTo e.1 stack) :: (previewEntries a fuel p' (stackAfter e stack)).1,
        (previewEntries a fuel p' (stackAfter e stack)).2) := by
  obtain ⟨q, _ | f⟩ := e <;> simp only [previewEntries, h, skipped] <;> rfl

theorem previewEntries_end : previewEntries a (fuel + 1) a.length stack = ([], none) := by
  simp only [previewEntries, entrySkip_end]

theorem previewEntries_of_error {x : Err} (h : entrySkip a p = .error x) :
    previewEntries a (fuel + 1) p stack = ([], some x) := by
  simp only [previewEntries, h]

/-- The loop lists the entries that are there, and then ends as it does at the cursor after them. -/
theorem previewEntries_raw (hes : ∀ e ∈ es, RawFits e) (hrest : RestAt a p (es.flatMap rawEntryBytes ++ r))
    (hend : ∀ stack, previewEntries a k (p + (es.flatMap rawEntryBytes).length) stack = ([], err)) :
    previewEntries a (es.length + k) p stack = (listing (es.map (fun e => (e.2.isNone, e.1))) stack, err) := by
  induction es generalizing p stack with
  | nil =>
    rw [List.length_nil, Nat.zero_add]
    exact hend stack
  | cons e es ih =>
    obtain ⟨he, hes⟩ := List.forall_mem_cons.1 hes
    rw [List.flatMap_cons, List.append_assoc] at hrest
    simp only [List.flatMap_cons, List.length_append, ← Nat.add_assoc] at hend
    rw [List.length_cons, Nat.succ_add, previewEntries_of_skip (entrySkip_rawEntry he hrest),
      ih hes hrest.tail hend]
    rfl

theorem length_le_flatMap_raw : es.length ≤ (es.flatMap rawEntryBytes).length := by
  rw [List.length_flatMap, ← List.length_map (f := fun e => (rawEntryBytes e).length)]
  exact List.length_le_sum_of_one_le _ (List.forall_mem_map.2 fun e _ => rawEntryBytes_pos e)

/-- The preview of an archive: its root, the items of the entries that are there, and the end at the bytes after them. -/
theorem previewArchive_raw (hn : root.length ≤ Config.maxStr) (ha : a = headerBytes true root ++ es.flatMap rawEntryBytes ++ r)
    (hes : ∀ e ∈ es, RawFits e)
    (hend : ∀ k stack, previewEntries a (k + 1) (a.length - r.length) stack = ([], err)) :
    previewArchive a = ⟨some root, listing (es.map (fun e => (e.2.isNone, e.1))) [], err⟩ := by
  rw [List.append_assoc] at ha
  have hrest : RestAt a (7 + root.length) (es.flatMap rawEntryBytes ++ r) := ⟨_, ha, headerBytes_length true root⟩
  have hlen := hrest.length
  have hcount := length_le_flatMap_raw (es := es)
  rw [List.length_append] at hlen
  obtain ⟨k, hk⟩ : ∃ k, a.length + 1 = es.length + (k + 1) := ⟨a.length - es.length, by omega⟩
  have hcursor : a.length - r.length = 7 + root.length + (es.flatMap rawEntryBytes).length := by omega
  have hloop := previewEntries_raw (stack := []) hes hrest (hcursor ▸ hend k)
  rw [← hk] at hloop
  simp only [previewArchive, headerRead_of_archive hn ha, hloop]

end

/-! ### The command -/

/-- PREV of an archive within BUF_CAP leaves its preview (R158). -/
theorem exec_prev_of_data {s : State} {a : Bytes} (ha : s.host.reply (.read s.pin) = .data a) (hcap : a.length ≤ s.cap) :
    exec .prev s = .next (((s.setHost (s.host.after (.read s.pin))).withPreview (previewArchive a)).setStatus 0x1C#8
      (endCode (previewArchive a).error)) := by
  have hpreview : preview s.cap s.pin s.host = (previewArchive a, s.host.after (.read s.pin)) := by
    simp only [preview, readArchive_of_data _ ha hcap]
  rw [exec_prev, State.afterPrev, hpreview]
  rfl

/-- PREV of an archive that could not be read leaves an empty listing (R158). -/
theorem exec_prev_of_readError {s : State} {e : Err} (h : (readArchive s.cap .ioFailure s.pin s.host).1 = .error e) :
    exec .prev s = .next (((s.setHost (s.host.after (.read s.pin))).setPvw []).abort 0x1C#8 e) := by
  have hread : readArchive s.cap .ioFailure s.pin s.host = (.error e, s.host.after (.read s.pin)) :=
    Prod.ext h (readArchive_host ..)
  have hpreview : preview s.cap s.pin s.host = (⟨none, [], some e⟩, s.host.after (.read s.pin)) := by
    simp only [preview, hread]
  rw [exec_prev, State.afterPrev, hpreview]
  rfl

/-- The replies to H_READ (20_memory.md R57). -/
theorem HostSide.reply_read_cases (h : HostSide) (p : Bytes) :
    h.reply (.read p) = .missing ∨ h.reply (.read p) = .ioFail ∨ ∃ b, h.reply (.read p) = .data b := by
  have hread (b : Bytes) : readReply h.draw b = .missing ∨ readReply h.draw b = .ioFail ∨
      ∃ c, readReply h.draw b = .data c := by
    unfold readReply
    split
    · exact .inl rfl
    · exact .inr (.inr ⟨b, rfl⟩)
  unfold HostSide.reply replyTo
  split
  · exact .inr (.inl rfl)
  · dsimp only
    cases fsLookup h.found p with
    | none => exact .inl rfl
    | some n =>
      cases n with
      | file b | special b => exact hread b
      | dir =>
        cases h.draw.dirData with
        | none => exact .inl rfl
        | some b => exact .inr (.inr ⟨b, rfl⟩)

end Sys2Proof.Machine
end

section
/-! PROOFS. The first request of CFILE and CDIR (46_operations.md R142, R145), and the order of byte strings written out
(00_scope.md R11). -/

namespace Sys2Proof.Machine

section

variable {cap depth : Nat} {ext pin pout : Bytes} {h : HostSide}

theorem compressFile_of_ioFail (hr : h.reply (.stat pin) = .ioFail) :
    compressFile cap ext pin pout h = (.error .ioFailure, h.after (.stat pin)) := by
  simp only [compressFile, Act.bind, ask_apply, hr, Act.raise_apply]

theorem compressDirectory_of_ioFail (hr : h.reply (.stat pin) = .ioFail) :
    compressDirectory cap depth ext pin pout h = (.error .ioFailure, h.after (.stat pin)) := by
  simp only [compressDirectory, Act.bind, ask_apply, hr, Act.raise_apply]

/-- CFILE of what is no file, or of a file without a valid name. -/
theorem compressFile_of_notFound (hr : h.reply (.stat pin) ≠ .ioFail)
    (hname : h.reply (.stat pin) = .file → validName (lastSeg pin) = false) :
    compressFile cap ext pin pout h = (.error .notFound, h.after (.stat pin)) := by
  simp only [compressFile, Act.bind, ask_apply]
  cases hreply : h.reply (.stat pin) with
  | ioFail => exact absurd hreply hr
  | file => simp only [hname hreply, Bool.false_eq_true, if_false, Act.raise_apply]
  | missing | dir | names | data | ok => rfl

/-- CDIR of what is no directory, or of a directory without a valid name. -/
theorem compressDirectory_of_notFound (hr : h.reply (.stat pin) ≠ .ioFail)
    (hname : h.reply (.stat pin) = .dir → validName (lastSeg pin) = false) :
    compressDirectory cap depth ext pin pout h = (.error .notFound, h.after (.stat pin)) := by
  simp only [compressDirectory, Act.bind, ask_apply]
  cases hreply : h.reply (.stat pin) with
  | ioFail => exact absurd hreply hr
  | dir => simp only [hname hreply, Bool.false_eq_true, if_false, Act.raise_apply]
  | missing | file | names | data | ok => rfl

end

/-! ### The order of byte strings -/

theorem bytesLt_cons (x y : Byte) (a b : Bytes) :
    bytesLt (x :: a) (y :: b) = if x = y then bytesLt a b else decide (x.toNat < y.toNat) := rfl

/-- A common beginning does not matter. -/
theorem bytesLt_append_left (c a b : Bytes) : bytesLt (c ++ a) (c ++ b) = bytesLt a b := by
  induction c with
  | nil => rfl
  | cons x c ih => rw [List.cons_append, List.cons_append, bytesLt_cons, if_pos rfl, ih]

/-- One string comes before another where it is a proper initial part of it, or has the smaller byte at the first difference (R11). -/
theorem bytesLt_iff {a b : Bytes} : bytesLt a b = true ↔
    (∃ (x : Byte) (r : Bytes), b = a ++ x :: r) ∨
      ∃ (c ra rb : Bytes) (x y : Byte), a = c ++ x :: ra ∧ b = c ++ y :: rb ∧ x.toNat < y.toNat := by
  constructor
  · intro h
    induction a generalizing b with
    | nil =>
      cases b with
      | nil => cases h
      | cons y b => exact .inl ⟨y, b, rfl⟩
    | cons x a ih =>
      cases b with
      | nil => cases h
      | cons y b =>
        rw [bytesLt_cons] at h
        split at h
        · next hxy =>
          subst hxy
          rcases ih h with ⟨z, r, rfl⟩ | ⟨c, ra, rb, z, w, rfl, rfl, hlt⟩
          · exact .inl ⟨z, r, rfl⟩
          · exact .inr ⟨x :: c, ra, rb, z, w, rfl, rfl, hlt⟩
        · exact .inr ⟨[], a, b, x, y, rfl, rfl, of_decide_eq_true h⟩
  · rintro (⟨x, r, rfl⟩ | ⟨c, ra, rb, x, y, rfl, rfl, hlt⟩)
    · have h := bytesLt_append_left a [] (x :: r)
      rw [List.append_nil] at h
      exact h
    · have hne : x ≠ y := fun hxy => by
        rw [hxy] at hlt
        exact Nat.lt_irrefl _ hlt
      rw [bytesLt_append_left, bytesLt_cons, if_neg hne, decide_eq_true hlt]

end Sys2Proof.Machine
end

section
/-! PROOFS. The statements about PREV, the first check of CFILE and CDIR, and the order of names (46_operations.md R142, R145,
R147, R157 to R161). -/

namespace Sys2Proof.Proofs

open Sys2Proof Sys2Proof.Machine Sys2Proof.Certificates

/-- Settles O39: the preview of the archive lists its entries one after another (`previewArchive_raw`, by induction on them) up
to the end, and the H_READ leaves the filesystem. -/
theorem prevListsEntries : Obligations.PrevListsEntries := by
  intro s root es hq hn hfile hcap hes
  obtain ⟨hfail, hview⟩ := quiet_draw hq
  have hread := HostSide.reply_read_file hq.1 hfail hview hfile
  have hpreview := previewArchive_raw (r := []) (err := none) hn (List.append_nil _).symm hes fun _ _ => previewEntries_end
  have hdisk := HostSide.after_disk (q := .read s.pin) hq.1 hfail
  refine ⟨_, exec_prev_of_data hread hcap, ?_, (Served.one ..).requests rfl, congrArg Disk.files hdisk⟩
  rw [hpreview]
  rfl

/-- Settles O40: a reply that is no archive within BUF_CAP and a bad header leave an empty listing (`exec_prev_of_readError`,
`exec_prev_of_headerError`); an entry that fails ends the list of those before it (`previewArchive_raw`). -/
theorem prevKeepsItemsOnError : Obligations.PrevKeepsItemsOnError := by
  rintro s h rfl
  refine ⟨s.host.reply_read_cases s.pin, fun hr => ?_, fun hr => ?_, fun a ha hlong => ?_, fun a e => exec_prev_of_headerError,
    fun root es a r e ha hcap hn harch hes he => ?_⟩
  · exact exec_prev_of_readError (by rw [readArchive_apply, hr])
  · exact exec_prev_of_readError (by rw [readArchive_apply, hr])
  · exact exec_prev_of_readError (by simp only [readArchive_apply, ha, if_neg (Nat.not_le_of_lt hlong)])
  · rw [exec_prev_of_data ha hcap, previewArchive_raw hn harch hes fun _ _ => previewEntries_of_error he]
    rfl

/-- Settles O41: the reply to the H_STAT and the name decide (`compressFile_of_notFound`, `compressDirectory_of_notFound`). -/
theorem compressionChecksInputFirst : Obligations.CompressionChecksInputFirst := by
  intro s
  refine ⟨_, rfl, fun hr => ?_, fun hr => ?_, fun hr => ?_, fun hname hr => ?_⟩
  · exact ⟨exec_cfile s (compressFile_of_ioFail hr), exec_cdir s (compressDirectory_of_ioFail hr)⟩
  · exact exec_cfile s (compressFile_of_notFound (by rcases hr with h | h <;> simp [h])
      fun hfile => by rcases hr with h | h <;> cases h.symm.trans hfile)
  · exact exec_cdir s (compressDirectory_of_notFound (by rcases hr with h | h <;> simp [h])
      fun hdir => by rcases hr with h | h <;> cases h.symm.trans hdir)
  · exact ⟨exec_cfile s (compressFile_of_notFound hr fun _ => hname),
      exec_cdir s (compressDirectory_of_notFound hr fun _ => hname)⟩

/-- Settles O60: the order is `bytesLt_iff`, and two sorted lists of the same names are equal (`sortBytes_eq_of_perm`). -/
theorem sortIgnoresListingOrder : Obligations.SortIgnoresListingOrder :=
  ⟨fun _ _ => bytesLt_iff, fun ns _ h => ⟨sortBytes_eq_of_perm h, sortBytes_perm ns, sortBytes_pairwise ns⟩⟩

end Sys2Proof.Proofs
end

section
/-! PROOFS. The errors of each command against its row of the error table (60_exceptions.md R172). The rows of FENC, CFILE and
CDIR leave out what their parts raise elsewhere: the codes of a file's own tree always exist, and the effective-bit count of
a packing is valid. -/

namespace Sys2Proof.Machine

open Sys2Proof.Certificates

/-! ### FENC (43_filecodec.md R114) -/

/-- FENC's codes come from DIN itself, so every byte of DIN has one and only the lengths can fail. -/
theorem fencRegs_raises (s : State) : Raises [.capacityExceeded] (fencRegs s) := by
  obtain ⟨c, hcodes, -, hcover, -⟩ := codesOf_freqOf s.din
  obtain ⟨o, e, -, hregs⟩ :=
    packRegs_of_covers (s := ((s.setFt (freqOf s.din)).setTree (buildTree (freqOf s.din))).setCt c) hcover
  rw [fencRegs_eq_packRegs hcodes, hregs]
  split
  · exact .ok _ _
  · exact .error (by decide)

/-! ### Encoding a file (46_operations.md R143) -/

theorem encodePasses_raises_listed (cap : Nat) (d1 d2 : Bytes) :
    Raises [.unknownSymbol, .capacityExceeded] (encodePasses cap d1 d2) := by
  obtain ⟨c, hcodes, -⟩ := codesOf_freqOf d1
  rw [encodePasses, hcodes]
  exact (pack_raises d2 c).bind fun _ => (Raises.check (by decide)).bind fun _ => .ok _ _

theorem encodePasses_eff {cap : Nat} {d1 d2 : Bytes} {f : Frame} (h : encodePasses cap d1 d2 = .ok f) :
    validEff f.eff = true := by
  obtain ⟨c, -, h⟩ := (Except.bind_ok_iff _ _ _).1 h
  obtain ⟨⟨o, e⟩, hpack, h⟩ := (Except.bind_ok_iff _ _ _).1 h
  obtain ⟨_, -, h⟩ := (Except.bind_ok_iff _ _ _).1 h
  cases h
  exact pack_eff hpack

/-- The frame of a file that was encoded carries a valid effective-bit count, whatever the two reads answered. -/
theorem encodeHostFile_eff {cap : Nat} {path : Bytes} {f : Frame} {h h' : HostSide}
    (hf : encodeHostFile cap path h = (.ok f, h')) : validEff f.eff = true := by
  obtain ⟨d1, h1, -, hf⟩ := (Act.bind_ok_iff ..).1 hf
  obtain ⟨d2, h2, -, hf⟩ := (Act.bind_ok_iff ..).1 hf
  exact encodePasses_eff (congrArg Prod.fst hf)

/-! ### Frames with a valid effective-bit count (43_filecodec.md R116) -/

section

variable {f : Frame}

theorem frameWrite_raises_of_eff (hf : validEff f.eff = true) :
    Raises [.capacityExceeded] (frameWrite f.packed f.eff f.table) := by
  rw [frameWrite, hf]
  exact (wrU32_raises _).bind fun _ => (tser_raises _).bind fun _ => .ok _ _

theorem fileEntry_raises_of_eff (hf : validEff f.eff = true) (q : Bytes) :
    Raises [.capacityExceeded] (fileEntry q f) :=
  (wrStr_raises _).bind fun _ => (wrStr_raises _).bind fun _ => (frameWrite_raises_of_eff hf).bind fun _ => .ok _ _

theorem fileArchive_raises_of_eff (hf : validEff f.eff = true) (name : Bytes) :
    Raises [.capacityExceeded] (fileArchive name f) :=
  (headerWrite_raises _ _).bind fun _ => (frameWrite_raises_of_eff hf).bind fun _ => .ok _ _

end

/-! ### CFILE and CDIR (46_operations.md R142, R145 to R149) -/

namespace Act.Raises

/-- A file that is encoded and then used: what follows may rely on a valid effective-bit count. -/
theorem encodeHostFile_bind {α : Type} {l : List Err} {cap : Nat} {path : Bytes} {g : Frame → Act α}
    (hl : [.notFound, .ioFailure, .unknownSymbol, .capacityExceeded] ⊆ l)
    (hg : ∀ f, validEff f.eff = true → Act.Raises l (g f)) :
    Act.Raises l ((Machine.encodeHostFile cap path).bind g) := by
  have hread : Act.Raises [.notFound, .ioFailure, .unknownSymbol, .capacityExceeded] (Machine.readFile path) :=
    (Act.Raises.readFile path).mono (by decide)
  have hencode : Act.Raises l (Machine.encodeHostFile cap path) :=
    (hread.bind fun _ => hread.bind fun _ => .lift ((encodePasses_raises_listed _ _ _).mono (by decide))).mono hl
  intro h e he
  rcases (Act.bind_error_iff _ _ h _ e).1 (Prod.ext he rfl) with hx | ⟨f, h1, hf, hx⟩
  · exact hencode h e (congrArg Prod.fst hx)
  · exact hg f (encodeHostFile_eff hf) h1 e (congrArg Prod.fst hx)

theorem writeArchive (out o : Bytes) : Act.Raises [.ioFailure] (Machine.writeArchive out o) :=
  (Act.Raises.demand _).bind fun _ => (Act.Raises.demand _).closingOnError.bind fun _ => .demand _

theorem compressFile_listed (cap : Nat) (ext pin pout : Bytes) :
    Act.Raises (mayRaise .cfile) (Machine.compressFile cap ext pin pout) := by
  refine (Act.Raises.ask _ _).bind fun r => ?_
  split
  · exact .raise (by decide)
  · split
    · refine .encodeHostFile_bind (by decide) fun f hf => ?_
      have harchive : Machine.Raises (mayRaise .cfile) (fileArchive (lastSeg pin) f) :=
        (fileArchive_raises_of_eff hf _).mono (by decide)
      exact (Act.Raises.lift (privateStream_raises harchive (by decide))).bind fun o =>
        (Act.Raises.writeArchive _ _).mono (by decide)
    · exact .raise (by decide)
  · exact .raise (by decide)

theorem listNames (dir : Bytes) : Act.Raises [.ioFailure] (Machine.listNames dir) := by
  refine (Act.Raises.ask _ _).bind fun r => ?_
  split
  · exact .pure _ _
  · exact .raise (by decide)

theorem walkChild {cap levels : Nat} (hwalk : ∀ dir rel, Act.Raises (mayRaise .cdir) (Machine.walk cap levels dir rel))
    (dir rel nm : Bytes) : Act.Raises (mayRaise .cdir) (Machine.walkChild cap levels dir rel nm) := by
  refine (Act.Raises.ask _ _).bind fun k => ?_
  split
  · exact .raise (by decide)
  · exact (Act.Raises.emitBuilt ((dirEntry_raises _).mono (by decide)) (by decide) (by decide)).bind fun _ => hwalk _ _
  · exact .encodeHostFile_bind (by decide) fun f hf =>
      .emitBuilt ((fileEntry_raises_of_eff hf _).mono (by decide)) (by decide) (by decide)
  · exact .raise (by decide)

theorem walk_listed (cap levels : Nat) (dir rel : Bytes) :
    Act.Raises (mayRaise .cdir) (Machine.walk cap levels dir rel) := by
  induction levels generalizing dir rel with
  | zero => exact .raise (by decide)
  | succ levels ih =>
    rw [walk_succ]
    exact ((Act.Raises.listNames dir).mono (by decide)).bind fun ns => .forNames (.walkChild ih dir rel) ns

theorem cdirBody (cap depth : Nat) (pin : Bytes) : Act.Raises (mayRaise .cdir) (Machine.cdirBody cap depth pin) :=
  (Act.Raises.emitBuilt ((headerWrite_raises _ _).mono (by decide)) (by decide) (by decide)).bind fun _ =>
    .walk_listed _ _ _ _

theorem compressDirectory_listed (cap depth : Nat) (ext pin pout : Bytes) :
    Act.Raises (mayRaise .cdir) (Machine.compressDirectory cap depth ext pin pout) := by
  have hdemand : ∀ q, Act.Raises (mayRaise .cdir) (Machine.demand q) := fun q =>
    (Act.Raises.demand q).mono (by decide)
  refine (Act.Raises.ask _ _).bind fun r => ?_
  split
  · exact .raise (by decide)
  · split
    · exact (hdemand _).bind fun _ => (Act.Raises.cdirBody cap depth pin).closingOnError.bind fun _ => hdemand _
    · exact .raise (by decide)
  · exact .raise (by decide)

end Act.Raises

/-! ### The rows of the error table (60_exceptions.md R172) -/

/-- The sharp form of `regsOf_raises`: a primitive command fails only with an error of its row. -/
theorem regsOf_raises_listed (i : Instr) (s : State) : Raises (mayRaise i) (regsOf i s) := by
  cases i with
  | freq | build | cfile | dfile | cdir | ddir | prev => exact .ok _ _
  | codes => exact (codesOf_raises _).bind fun _ => .ok _ _
  | trie => exact (toTrie_raises _).bind fun _ => .ok _ _
  | tser => exact bind_appendDout_raises (tser_raises _) (by decide) s
  | tdes => exact (tdes_raises _ _).bind fun _ => .ok _ _
  | pack => exact (pack_raises _ _).bind fun _ => (Raises.check (by decide)).bind fun _ => .ok _ _
  | unpack => exact bind_appendDout_raises ((unpack_raises _ _ _).mono (by decide)) (by decide) s
  | fenc => exact fencRegs_raises s
  | fdec =>
    exact ((toTrie_raises _).mono (by decide)).bind fun _ => ((unpack_raises _ _ _).mono (by decide)).bind fun _ =>
      ((appendDout_raises _ _).mono (by decide)).bind fun _ => .ok _ _
  | pwr => exact bind_appendDout_raises (frameWrite_raises _ _ _) (by decide) s
  | prd => exact (frameRead_raises _ _).bind fun _ => .ok _ _
  | pskip => exact (frameSkip_raises _ _).bind fun _ => .ok _ _
  | ewrDir => exact bind_appendDout_raises (dirEntry_raises _) (by decide) s
  | ewrFile => exact bind_appendDout_raises (fileEntry_raises _ _) (by decide) s
  | erd =>
    refine (entryRead_raises _ _).bind fun ⟨e, p⟩ => ?_
    cases e <;> exact .ok _ _
  | hwrFile | hwrFold => exact bind_appendDout_raises (headerWrite_raises _ _) (by decide) s
  | hrdFile | hrdFold => exact (headerRead_raises _ _ _).bind fun _ => .ok _ _

/-- The sharp form of `actOf_raises`: an operation command fails only with an error of its row. -/
theorem actOf_raises_listed (i : Instr) (s : State) : Act.Raises (mayRaise i) (actOf i s) := by
  cases i with
  | cfile => exact .compressFile_listed _ _ _ _
  | dfile => exact (Act.Raises.decompressFile _ _ _).mono (by decide)
  | cdir => exact .compressDirectory_listed _ _ _ _ _
  | ddir => exact (Act.Raises.decompressDirectory _ _ _).mono (by decide)
  | _ => exact .pure _ _

theorem Raises.of_resultError {α : Type} {l : List Err} {r : Except Err α} (h : Raises l r) {e : Err}
    (he : resultError r = some e) : e ∈ l := by
  cases r with
  | ok a => cases he
  | error e' => cases he; exact h _ rfl

/-- Every command writes STATUS last, with no error or one of its row. -/
theorem exec_ends_listed (i : Instr) (s : State) :
    ∃ (u : State) (r : Option Err), exec i s = .next (u.setStatus (opcode i) (endCode r)) ∧
      ∀ e, r = some e → e ∈ mayRaise i := by
  cases hi : primitive i with
  | true =>
    obtain ⟨u, hu, -⟩ := exec_primitive_ends hi s
    exact ⟨u, _, hu, fun _ => (regsOf_raises_listed i s).of_resultError⟩
  | false =>
    by_cases hp : i = .prev
    · subst hp
      exact ⟨_, _, exec_prev s, fun _ => preview_raises⟩
    · exact ⟨_, _, (exec_operation hi hp s).trans (congrArg _ (State.operate_eq _ _ _)),
        fun _ => (actOf_raises_listed i s s.host).of_resultError⟩

/-! ### Commands that fail (60_exceptions.md R169) -/

/-- A primitive command that leaves ERR nonzero wrote STATUS only. -/
theorem exec_primitive_of_err_ne_zero {i : Instr} {s t : State} (hi : primitive i = true) (h : exec i s = .next t)
    (herr : t.err ≠ 0) : ∃ e, t = s.abort (opcode i) e := by
  rw [exec_primitive hi, Host.Outcome.next.injEq] at h
  subst h
  rcases State.finish_cases (opcode i) (regsOf i s) s with ⟨u, -, hfinish⟩ | ⟨e, -, hfinish⟩
  · rw [hfinish, State.err_succeed] at herr
    exact absurd rfl herr
  · exact ⟨e, hfinish⟩

/-! ### Illegal words (60_exceptions.md R168) -/

theorem step_of_decode_none {w : Word} {s : State} (hp : s.pending = .command w) (hd : decode w = none) :
    step s = .next (s.taken.abort (opField w) .illegalCommand) := by
  unfold step
  rw [hp]
  simp only [hd]
  rfl

end Sys2Proof.Machine
end

section
/-! PROOFS. The statements about errors (60_exceptions.md R168, R169, R172). -/

namespace Sys2Proof.Proofs

open Sys2Proof Sys2Proof.Machine Sys2Proof.Certificates

/-- Settles O4: an illegal word does not decode (`decodeAcceptsExactlyLegalWords`), and the step then takes IllegalCommand. -/
theorem illegalWordWritesOnlyStatus : Obligations.IllegalWordWritesOnlyStatus := by
  intro w s hw hp
  have hd : decode w = none := by
    rw [← Option.not_isSome_iff_eq_none, decodeAcceptsExactlyLegalWords, hw]
    exact Bool.false_ne_true
  exact ⟨_, step_of_decode_none hp hd, rfl, State.err_abort _ _ _, State.lastOp_setStatus _ _ _,
    statusWord_reserved _ _⟩

/-- Settles O45: a primitive command that fails only writes STATUS (`exec_primitive_of_err_ne_zero`), and an operation
command keeps the other registers however it ends (`commandsKeepOtherRegisters`). -/
theorem errorLeavesRegisters : Obligations.ErrorLeavesRegisters := by
  intro i s t h herr
  cases hi : primitive i with
  | true =>
    obtain ⟨e, rfl⟩ := exec_primitive_of_err_ne_zero hi h herr
    exact ⟨fun _ => rfl, fun _ => rfl, fun _ => rfl⟩
  | false =>
    obtain ⟨t', ht, -, -, -, -, -, -, -, -, -, -, -, hoperation, hprev⟩ := commandsKeepOtherRegisters i s
    obtain rfl : t' = t := Host.Outcome.next.inj (ht.symm.trans h)
    exact ⟨hoperation hi, hprev, nofun⟩

/-- Settles O48: a command ends with no error or one of its row (`exec_ends_listed`). -/
theorem commandsRaiseOnlyListedErrors : Obligations.CommandsRaiseOnlyListedErrors := by
  intro i s t h
  obtain ⟨u, r, hu, hr⟩ := exec_ends_listed i s
  obtain rfl : u.setStatus (opcode i) (endCode r) = t := Host.Outcome.next.inj (hu.symm.trans h)
  rw [State.err_setStatus]
  cases r with
  | none => exact .inl rfl
  | some e => exact .inr ⟨e, hr e rfl, rfl⟩

end Sys2Proof.Proofs
end
